-- ==== Sys2Proof/Word.lean ====
section
/-! DEFINITION. The word types of the block and the bounded numbers the spec counts its parts with. -/

namespace Sys2Proof

/-- One byte. -/
abbrev Byte := BitVec 8
/-- A register or descriptor word (R16, R20): 64 bits. -/
abbrev Word := BitVec 64
/-- A status code of R213: 16 bits. -/
abbrev Code := BitVec 16
/-- A die, 0 to 3 (R10). -/
abbrev DieId := Fin 4
/-- A queue numbered within its die (R190). -/
abbrev QId := Fin 1024
/-- A package port: ports 2d and 2d + 1 belong to die d (R77, R278). -/
abbrev PortId := Fin 8
/-- A PCIe function, and with it a tenant: 0 the PF, n the VF n (R74, R346). -/
abbrev Fn := Fin 65
/-- A stack of a die (R172). -/
abbrev StackId := Fin 3

/-- The two half-arrays, and regions, of a die (R10, R95). -/
inductive Half where
  | west
  | east
  deriving DecidableEq, Repr

/-- 0 for West and 1 for East, as the region bits of the spec count them. -/
def Half.num : Half → Nat
  | .west => 0
  | .east => 1

/-- The other half of the die. -/
def Half.other : Half → Half
  | .west => .east
  | .east => .west

end Sys2Proof
end

