-- ==== Sys2Proof/Syntax.lean ====
section
/-! DEFINITION. The commands of the block: one constructor of `Instr` for each row of spec/opcode_table.json, in
the table's order, with the operands the spec gives the event (log 5). -/

namespace Sys2Proof

/-- What brought a power-on reset about (R62, R45, R46). -/
inductive PorCause where
  | rails
  | pwrgdRise
  | supplyMonitor
  deriving DecidableEq, Repr

/-- The supply rails of R45. -/
inductive Rail where
  | vddCore | vddVat | vddAon | vppHbm | vddcHbm | vddqHbm | vddaLnk | vddhLnk | vddaPcie | vddIo
  deriving DecidableEq, Repr

/-- Which start-up a step end belongs to: the package's (R59), the one a die reset runs (R62, R63), or the step 2
that a Troroik reruns after its watchdog (R62). -/
inductive StartScope where
  | package
  | die (d : DieId)
  | troroik (d : DieId)
  deriving DecidableEq, Repr

/-- What step 5 finds on one die (R27, R59): bypassed columns of the two halves, bypassed lanes of the four
clusters, working lanes of the two ports, and a fault that bypass cannot remove (of the bypass set, in a die
reset: R63). -/
structure SelfTest where
  colsWest : BitVec 512
  colsEast : BitVec 512
  lanes0 : BitVec 9
  lanes1 : BitVec 9
  lanes2 : BitVec 9
  lanes3 : BitVec 9
  portLo : BitVec 4
  portHi : BitVec 4
  fault : Bool
  deriving DecidableEq, Repr

/-- How a start-up step ended. `fail`: the step failed on that die with that code (R59, R60). `selfTest` ends
step 5 and carries what it found on the four dies (one entry for a die reset); `stacks`
ends step 4 of a die reset with the stacks that failed (R63); `ok` ends every other step. -/
inductive StepResult where
  | ok
  | fail (d : DieId) (code : Code)
  | stacks (failed : List StackId)
  | selfTest (found : List SelfTest)
  deriving DecidableEq, Repr

/-- A cluster with a counter block (R40): array tile, vector cluster or link port of a die. -/
inductive Cluster where
  | tile (d : DieId) (t : Fin 128)
  | vec (d : DieId) (c : Fin 4)
  | port (d : DieId) (p : Fin 2)
  deriving DecidableEq, Repr

/-- Why a stack is lost (R187). -/
inductive StackLoss where
  | retrainFailed
  | lines256
  | catastrophic
  deriving DecidableEq, Repr

/-- The link-level fields of a frame's header word 0 (R283). -/
structure LinkHdr where
  lseq : BitVec 12
  ack : BitVec 12
  cvc : BitVec 2
  credits : BitVec 5
  nak : Bool
  deriving DecidableEq, Repr

/-- A Felrik frame without its link-level fields (R282 to R284): the other fields of word 0, words 1 and 2, and the
LEN payload bytes. -/
structure Frame where
  typ : BitVec 4
  vc : BitVec 2
  dateline : Bool
  tenant : BitVec 7
  epoch : BitVec 2
  last : Bool
  raised : Bool
  w1 : Word
  w2 : Word
  payload : List Byte
  deriving DecidableEq, Repr

/-- What the two ends exchange at the end of training (R279, R312). -/
structure PeerId where
  serial : Word
  coord : Word
  role : BitVec 4
  feed : BitVec 8
  deriving DecidableEq, Repr

/-- What a control frame of the pair says (R206, R207, R312, R321, R324, R325). The spec leaves the bytes of TYPE 5
frames to no chapter (R284), so the message is the operand (log 20). -/
inductive PairMsg where
  | accepted (q : Fin 4096) (tail : BitVec 48)
  | started (q : Fin 4096) (seq : BitVec 48)
  | prepared (q : Fin 4096)
  | committed (q : Fin 4096)
  | drainData (d : DieId) (bytes : List Byte) (last : Bool)
  | restoreFacts (d : DieId) (histSaved : Bool) (step : Word)
  | compareCrcs (d : DieId) (crcs : List Word)
  | receipt (d : DieId) (sealed : Bool)
  | refusedDrain (d : DieId)
  | attach (bytes : List Byte)
  deriving DecidableEq, Repr

/-- Which part of the partner is fenced (R207). -/
inductive FencedPart where
  | region (d : DieId) (h : Half)
  | die (d : DieId)
  deriving DecidableEq, Repr

/-- What a change of MSI-X state by the host writes (R218). -/
inductive MsixChange where
  | enable (on : Bool)
  | functionMask (on : Bool)
  | vectorMask (v : BitVec 8) (on : Bool)
  deriving DecidableEq, Repr

/-- The kinds of IDE stream (R53, R342): Link IDE, or a Selective IDE stream of number 0 to 7. -/
inductive IdeStream where
  | link
  | selective (n : Fin 8)
  deriving DecidableEq, Repr

/-- An IDE_KM message (R342): keys programmed for a stream, the stream started, or stopped. A selective stream's
address association is the range `lo` to `hi` of the BAR0 of a function. -/
inductive IdeKm where
  | keyProgram (st : IdeStream) (key : BitVec 256)
  | goOn (st : IdeStream) (fn : Fn) (lo hi : Word)
  | stop (st : IdeStream)
  deriving DecidableEq, Repr

/-- How the flash writes of a firmware update ended (R336): all verified, or that of copy A or B of a die failed. -/
inductive FlashResult where
  | ok
  | flashFail (d : DieId) (copyB : Bool)
  deriving DecidableEq, Repr

/-- The algorithms that an SPDM requester can offer (R339): those the device supports, and any other. -/
inductive SpdmAlg where
  | ecdsaP384
  | sha384
  | secp384r1
  | aes256gcm
  | other (n : Nat)
  deriving DecidableEq, Repr

/-- A configuration request (R53, R54): its function and, where it writes the function's power state, whether to D3hot. -/
structure ConfigReq where
  fn : Fn
  d3hot : Option Bool
  deriving DecidableEq, Repr

/-- The algorithms offered to a mailbox by NEGOTIATE_ALGORITHMS. -/
structure AlgOffer where
  mb : Fn
  algs : List SpdmAlg
  deriving DecidableEq, Repr

/-- The portion of a certificate chain that GET_CERTIFICATE asks a mailbox for. -/
structure CertReq where
  mb : Fn
  slot : BitVec 8
  offset : BitVec 16
  len : BitVec 16
  deriving DecidableEq, Repr

/-- A certificate slot and the requester's nonce: what a signed SPDM answer is asked for with. -/
structure SlotNonce where
  slot : BitVec 8
  nonce : BitVec 256
  deriving DecidableEq, Repr

/-- GET_MEASUREMENTS: the index of a block, and a signature where one is asked for. -/
structure MeasureReq where
  index : BitVec 8
  signed : Option SlotNonce
  deriving DecidableEq, Repr

/-- KEY_EXCHANGE: a certificate slot and the requester's share. -/
structure Exchange where
  slot : BitVec 8
  share : BitVec 768
  deriving DecidableEq, Repr

/-- The commands: one constructor for each row of spec/opcode_table.json. -/
inductive Instr where
  -- resets and start-up (R45 to R65)
  | powerOnReset (cause : PorCause) (aonKept : Bool) (feed : BitVec 8)
  | pwrgdFall
  | perstN
  | perstDeassert
  | hotReset
  | pkgReset
  | pfFunctionLevelReset
  | vfFunctionLevelReset (vf : Fin 64)
  | dieReset (d : DieId)
  | troroikWatchdog (d : DieId)
  | startupStepEnd (sc : StartScope) (r : StepResult)
  | configRequest (r : ConfigReq)
  -- supplies, clocks, temperature (R45 to R67)
  | coreDroop (lowestMv : BitVec 16) (durationNs : BitVec 32)
  | coreUndervoltExpiry (feed : BitVec 8)
  | railOutOfRange (rail : Rail)
  | refclkALoss
  | pcieRefclkLoss
  | lnkRefclkLoss (d : DieId)
  | hostLinkDown
  | hostLinkTrained (x16 : Bool) (gt64 : Bool)
  | thermalSample (d : DieId) (readings : Vector (BitVec 8) 16)
  | powerSample (watts : BitVec 16)
  | capWindowEnd
  | voltageStep
  | avsAck
  | avsAckTimeout
  | avsRetry
  | pwrCapWrite (capW : BitVec 11) (vmaxMv : BitVec 10)
  | coreRateRefresh (d : DieId) (mv : BitVec 16) (mhz : BitVec 16)
  -- clusters and counters (R28, R40 to R42)
  | gate (c : Cluster) (on : Bool)
  | clusterWakeDone (c : Cluster)
  | freeze (c : Cluster) (on : Bool)
  | clear (c : Cluster)
  | freezeAll
  | release
  -- fences and memory errors (R30 to R32, R172, R184, R186, R187)
  | handshakeTimeout (d : DieId) (h : Half)
  | accParityError (d : DieId) (h : Half)
  | troroikSilentTimeout (d : DieId)
  | hbmCatastrophicError (d : DieId) (st : StackId) (why : StackLoss)
  | patrolScrubAccess (d : DieId) (st : StackId)
  | hbmRefresh (d : DieId) (st : StackId)
  | sweepPage (d : DieId)
  | sweepEnd (tenant : Fn)
  -- time base (R37 to R39, R284)
  | timestampSend
  | timestampFrameRx (p : PortId) (h : LinkHdr) (f : Frame)
  | logTimeSet (v : Word)
  -- images and the turn (R81 to R93, R291 to R296)
  | load (v : Word)
  | imageLoadDone (dmaError : Bool)
  | discard (v : Word)
  | discardDone
  | imgGenFloorWrite (v : Word)
  | start (v : Word)
  | abort (v : Word)
  | turnDrainEnd
  | drainLimitExpiry
  | structureSwitchEnd
  | pressDescriptor (d : DieId)
  | pressEnd
  | shardDeadlineExpiry
  | rollbackDone
  | go (v : Word)
  | shardFrameRx (p : PortId) (h : LinkHdr) (f : Frame)
  | absentMarkerRx (p : PortId) (h : LinkHdr) (f : Frame)
  -- queues (R190 to R201)
  | doorbell (d : DieId) (q : QId) (fn : Fn) (tail : BitVec 48) (ide : Option IdeStream)
  | doorbellAck (d : DieId) (q : QId)
  | entryFetch (d : DieId) (q : QId)
  | entryStart (d : DieId) (q : QId)
  | entryComplete (d : DieId) (q : QId) (seq : BitVec 48)
  | resumeSkip (d : DieId) (q : QId) (fn : Fn)
  | queueReset (d : DieId) (q : QId) (fn : Fn)
  | queueEnable (d : DieId) (q : QId) (fn : Fn) (v : Word)
  | queueDisable (d : DieId) (q : QId) (fn : Fn) (v : Word)
  -- descriptors: the started entry `seq` of queue `q` of die `d` reaches its engine
  | noOperation (d : DieId) (q : QId) (seq : BitVec 48)
  | arrayOneHalf (d : DieId) (q : QId) (seq : BitVec 48)
  | arrayGanged (d : DieId) (q : QId) (seq : BitVec 48)
  | arrayGradientPair (d : DieId) (q : QId) (seq : BitVec 48)
  | vectorTensor (d : DieId) (q : QId) (seq : BitVec 48)
  | accumulatorReadout (d : DieId) (q : QId) (seq : BitVec 48)
  | chainLoad (d : DieId) (q : QId) (seq : BitVec 48)
  | copy (d : DieId) (q : QId) (seq : BitVec 48)
  | pageAssign (d : DieId) (q : QId) (seq : BitVec 48)
  | pageRelease (d : DieId) (q : QId) (seq : BitVec 48)
  | momentumSgdUpdate (d : DieId) (q : QId) (seq : BitVec 48)
  | adamUpdate (d : DieId) (q : QId) (seq : BitVec 48)
  | signMomentumUpdate (d : DieId) (q : QId) (seq : BitVec 48)
  | plainCommit (d : DieId) (q : QId) (seq : BitVec 48)
  | tokenCommit (d : DieId) (q : QId) (seq : BitVec 48)
  | stepCommit (d : DieId) (q : QId) (seq : BitVec 48)
  | stepReplayCommit (d : DieId) (q : QId) (seq : BitVec 48)
  | commitProceed (d : DieId) (q : QId)
  | commitPhase2 (d : DieId) (q : QId)
  | partnerTimeout
  | takeover
  | partnerFenceNotice (part : FencedPart)
  | openCtx (d : DieId) (q : QId) (seq : BitVec 48)
  | closeCtx (d : DieId) (q : QId) (seq : BitVec 48)
  | pauseCtx (d : DieId) (q : QId) (seq : BitVec 48)
  | resumeCtx (d : DieId) (q : QId) (seq : BitVec 48)
  | gather (d : DieId) (q : QId) (seq : BitVec 48)
  | append (d : DieId) (q : QId) (seq : BitVec 48)
  | advance (d : DieId) (q : QId) (seq : BitVec 48)
  | publish (d : DieId) (q : QId) (seq : BitVec 48)
  | prefixRelease (d : DieId) (q : QId) (seq : BitVec 48)
  | adapterInstall (d : DieId) (q : QId) (seq : BitVec 48)
  | adapterRetire (d : DieId) (q : QId) (seq : BitVec 48)
  | adapterFetch (d : DieId) (q : QId) (seq : BitVec 48)
  | setKey (d : DieId) (q : QId) (seq : BitVec 48)
  | setData (d : DieId) (q : QId) (seq : BitVec 48)
  | beginMb (d : DieId) (q : QId) (seq : BitVec 48)
  | setLayer (d : DieId) (q : QId) (seq : BitVec 48)
  | setCounter (d : DieId) (q : QId) (seq : BitVec 48)
  | reduceScatter (d : DieId) (q : QId) (seq : BitVec 48)
  | allreduce (d : DieId) (q : QId) (seq : BitVec 48)
  | allgather (d : DieId) (q : QId) (seq : BitVec 48)
  | probe (d : DieId) (q : QId) (seq : BitVec 48)
  | bucketComplete (d : DieId) (job : BitVec 12)
  | jobGo (d : DieId) (v : Word)
  | snapshot (d : DieId) (q : QId) (seq : BitVec 48)
  | holdEnd (d : DieId) (q : QId)
  | restore (d : DieId) (q : QId) (seq : BitVec 48)
  | drain (d : DieId) (q : QId) (seq : BitVec 48)
  | compare (d : DieId) (q : QId) (seq : BitVec 48)
  | ckptSlotWrite (d : DieId) (k : Fin 3) (v : Word)
  | create (d : DieId) (q : QId) (seq : BitVec 48)
  | rotate (d : DieId) (q : QId) (seq : BitVec 48)
  | remove (d : DieId) (q : QId) (seq : BitVec 48)
  | removeDrainExpiry (tenant : Fn)
  | importPages (d : DieId) (q : QId) (seq : BitVec 48)
  | exportPages (d : DieId) (q : QId) (seq : BitVec 48)
  | keyWorkTimeout (d : DieId) (q : QId) (seq : BitVec 48)
  -- firmware, image keys, SPDM, IDE, telemetry (R336 to R342, R352)
  | update (v : Word)
  | firmwareUpdateDone (r : FlashResult)
  | enroll (v : Word)
  | revoke (v : Word)
  | getVersion (mb : Fn)
  | getCapabilities (mb : Fn)
  | negotiateAlgorithms (o : AlgOffer)
  | getDigests (mb : Fn)
  | getCertificate (r : CertReq)
  | challenge (mb : Fn) (r : SlotNonce)
  | getMeasurements (mb : Fn) (r : MeasureReq)
  | keyExchange (mb : Fn) (x : Exchange)
  | finish (mb : Fn)
  | keyUpdate (mb : Fn)
  | endSession (mb : Fn)
  | setTransportKey (mb : Fn) (key : BitVec 256)
  | ideKmRequest (m : IdeKm)
  | ideStreamLost (st : IdeStream)
  | telemetryRefresh (overload : Bool) (loadPct : BitVec 8)
  -- ports and frames (R278 to R304)
  | portTrainingDone (p : PortId) (peer : PeerId)
  | trainingRetry (p : PortId)
  | frameSend (p : PortId)
  | idleFrameRx (p : PortId) (h : LinkHdr)
  | replayExhausted (p : PortId)
  | d2dReplayExhausted (a b : DieId)
  | jobFrameRx (p : PortId) (h : LinkHdr) (f : Frame)
  | controlFrameRx (p : PortId) (h : LinkHdr) (m : PairMsg)
  -- interrupts and the log (R214 to R231)
  | msixDeliver (d : DieId) (fn : Fn)
  | troroikEventDeliver (d : DieId)
  | msixUnmask (fn : Fn) (c : MsixChange)
  | hold (v : Word)
  | intPfEoi (d : DieId) (v : Word)
  | stackReset (d : DieId)
  | clearCounts (d : DieId)
  | countClear (d : DieId) (src : BitVec 14)
  | flagClear (d : DieId) (src : BitVec 14)
  | thymeRecordWrite (d : DieId)
  | clearDrops (d : DieId)
  -- counter clears and plain register writes
  | convCountersClear (d : DieId)
  | updCountersClear (d : DieId)
  | vatCountersClear (d : DieId)
  | memCountersClear (d : DieId)
  | ctxTokensClear (d : DieId)
  | lnkCountersClear (d : DieId)
  | ckptMismatchClear (d : DieId)
  | keyBusyCountClear
  | registerWrite (fn : Fn) (addr : BitVec 27) (v : Word)
  | sysRefclkBLoss
  | imageSigningSlotOperationEnd
  | badCrcFrameReceived (p : PortId)
  deriving DecidableEq, Repr

end Sys2Proof
end

