-- ==== Sys2Proof/Machine/Bits.lean ====
section
/-! DEFINITION. Bit fields and byte order (R18, R20). -/

namespace Sys2Proof.Machine

/-- Bits `hi:lo` of a word as a number (R18). -/
def fld {n : Nat} (w : BitVec n) (hi lo : Nat) : Nat := (w.toNat >>> lo) % 2 ^ (hi + 1 - lo)

/-- Bit `i` of a word. -/
def bitAt {n : Nat} (w : BitVec n) (i : Nat) : Bool := w.toNat.testBit i

/-- A Bool as a bit. -/
def bnum (b : Bool) : Nat := if b then 1 else 0

/-- A register word from fields: each pair is a value and the lowest bit of its field. -/
def packWord (fs : List (Nat × Nat)) : Word := BitVec.ofNat 64 (fs.foldl (fun a f => a + f.1 * 2 ^ f.2) 0)

/-- The `n` low bytes of a number, least significant first (R20). -/
def leBytes : Nat → Nat → List Byte
  | 0, _ => []
  | n + 1, v => BitVec.ofNat 8 v :: leBytes n (v / 256)

/-- The number a little-endian byte string stands for (R20). -/
def ofLe : List Byte → Nat
  | [] => 0
  | b :: bs => b.toNat + 256 * ofLe bs

/-- A 64-bit counter after `k` more events: it wraps (R40). -/
def ctrAdd (c : Word) (k : Nat) : Word := c + BitVec.ofNat 64 k

/-- A counter that saturates at its greatest value after `k` more events (R215, R309). -/
def satAdd {n : Nat} (c : BitVec n) (k : Nat) : BitVec n := BitVec.ofNat n (min (c.toNat + k) (2 ^ n - 1))

/-- A number in two's complement of `n` bits. -/
def ofInt (n : Nat) (i : Int) : BitVec n := BitVec.ofInt n i

/-- `a / b` rounded up. -/
def ceilDiv (a b : Nat) : Nat := (a + b - 1) / b

end Sys2Proof.Machine
end

