-- ==== Sys2Proof/Machine/Cipher.lean ====
section
/-! DEFINITION. AES-128 encryption, which makes the random draws (R265), XTS-AES-256 and AES-256-CMAC of pages (R182), and the
CRC-64 of R282 and R325. PRESUMED (log 24): the ciphers and modes are those of their standards. -/

namespace Sys2Proof.Machine

/-- The 256 bytes of the substitution box, byte i at bits 8i + 7 to 8i. -/
def sboxTable : Nat := 0x16bb54b00f2d99416842e6bf0d89a18cdf2855cee9871e9b948ed9691198f8e19e1dc186b95735610ef6034866b53e708a8bbd4b1f74dde8c6b4a61c2e2578ba08ae7a65eaf4566ca94ed58d6d37c8e779e4959162acd3c25c2406490a3a32e0db0b5ede14b8ee4688902a22dc4f816073195d643d7ea7c41744975fec130ccdd2f3ff1021dab6bcf5389d928f40a351a89f3c507f02f94585334d43fbaaefd0cf584c4a39becb6a5bb1fc20ed00d153842fe329b3d63b52a05a6e1b1a2c830975b227ebe28012079a059618c323c7041531d871f1e5a534ccf73f362693fdb7c072a49cafa2d4adf04759fa7dc982ca76abd7fe2b670130c56f6bf27b777c63

def subByte (b : Nat) : Nat := (sboxTable >>> (8 * b)) % 256

/-- Double in GF(2^8) modulo x^8 + x^4 + x^3 + x + 1. -/
def xtime (b : Nat) : Nat := if b < 128 then 2 * b else (2 * b) % 256 ^^^ 0x1b

/-- The bytes of a 128-bit number, least significant first. -/
def bytes16 (n : Nat) : List Nat := (List.range 16).map (fun i => (n >>> (8 * i)) % 256)
def ofBytes16 (bs : List Nat) : Nat := bs.foldr (fun b acc => b + 256 * acc) 0

/-- Words i on of a key schedule: each word of `k` with the word before it, the first with `t`. -/
def chainWords (t k : List Nat) : List Nat :=
  let at' := fun i => k.getD i 0
  let w0 := (List.range 4).map (fun i => at' i ^^^ t.getD i 0)
  let w1 := (List.range 4).map (fun i => at' (4 + i) ^^^ w0.getD i 0)
  let w2 := (List.range 4).map (fun i => at' (8 + i) ^^^ w1.getD i 0)
  let w3 := (List.range 4).map (fun i => at' (12 + i) ^^^ w2.getD i 0)
  w0 ++ w1 ++ w2 ++ w3

/-- The last word of 16 bytes, rotated, substituted and with a round constant; and only substituted. -/
def rotSub (rcon : Nat) (k : List Nat) : List Nat :=
  [subByte (k.getD 13 0) ^^^ rcon, subByte (k.getD 14 0), subByte (k.getD 15 0), subByte (k.getD 12 0)]
def onlySub (k : List Nat) : List Nat := (List.range 4).map (fun i => subByte (k.getD (12 + i) 0))

/-- The round keys of AES-128 after the first, one for each round constant. -/
def keys128 : List Nat → List Nat → List (List Nat)
  | [], _ => []
  | r :: rs, k => let k' := chainWords (rotSub r k) k; k' :: keys128 rs k'

/-- The round keys of AES-256 after the first two, in pairs. -/
def keys256 : List Nat → List Nat → List Nat → List (List Nat)
  | [], _, _ => []
  | r :: rs, k0, k1 =>
    let k2 := chainWords (rotSub r k1) k0
    let k3 := chainWords (onlySub k2) k1
    k2 :: k3 :: keys256 rs k2 k3

/-- Rotate row r of the column-major block left by r. -/
def shiftRows (b : List Nat) : List Nat :=
  (List.range 16).map (fun i => b.getD ((i + 4 * (i % 4)) % 16) 0)

/-- Mix one column. -/
def mixCol (a b c d : Nat) : List Nat :=
  [xtime a ^^^ (xtime b ^^^ b) ^^^ c ^^^ d, a ^^^ xtime b ^^^ (xtime c ^^^ c) ^^^ d,
   a ^^^ b ^^^ xtime c ^^^ (xtime d ^^^ d), (xtime a ^^^ a) ^^^ b ^^^ c ^^^ xtime d]

def mixCols (b : List Nat) : List Nat :=
  (List.range 4).flatMap (fun j =>
    mixCol (b.getD (4 * j) 0) (b.getD (4 * j + 1) 0) (b.getD (4 * j + 2) 0) (b.getD (4 * j + 3) 0))

def xorBytes (a b : List Nat) : List Nat := List.zipWith (· ^^^ ·) a b

/-- The rounds of a cipher, one for each round key that remains; the last mixes no columns. -/
def aesRounds : List (List Nat) → List Nat → List Nat
  | [], st => st
  | [k], st => xorBytes (shiftRows (st.map subByte)) k
  | k :: ks, st => aesRounds ks (xorBytes (mixCols (shiftRows (st.map subByte))) k)

/-- AES-128 of a block under a key, both as little-endian 128-bit numbers (R265). -/
def aes128 (key block : BitVec 128) : BitVec 128 :=
  let k := bytes16 key.toNat
  BitVec.ofNat 128 (ofBytes16
    (aesRounds (keys128 [0x01, 0x02, 0x04, 0x08, 0x10, 0x20, 0x40, 0x80, 0x1b, 0x36] k) (xorBytes (bytes16 block.toNat) k)))

/-- AES-256 of a block of 16 bytes under a key, the key a little-endian 256-bit number. -/
def aes256 (key : BitVec 256) (block : List Nat) : List Nat :=
  let k0 := bytes16 key.toNat
  let k1 := bytes16 (key.toNat / 2 ^ 128)
  -- seven pairs of keys follow the first two; the last of them is not used
  aesRounds (k1 :: (keys256 [0x01, 0x02, 0x04, 0x08, 0x10, 0x20, 0x40] k0 k1).take 13) (xorBytes block k0)

/-! ### XTS-AES-256 and AES-256-CMAC (R182) -/

/-- The blocks of 16 bytes of a byte string. -/
def blocks16 (bs : List Byte) : List (List Nat) :=
  (List.range (bs.length / 16)).map (fun i => ((bs.drop (16 * i)).take 16).map BitVec.toNat)

/-- The next tweak of XTS: doubled, bytes least significant first. -/
def nextTweak (t : List Nat) : List Nat :=
  let n := 2 * ofBytes16 t
  bytes16 (if n < 2 ^ 128 then n else (n - 2 ^ 128) ^^^ 0x87)

/-- The blocks of a data unit from one on, under the tweak of that block. -/
def xtsBlocks (key : BitVec 256) : List Nat → List (List Nat) → List Nat
  | _, [] => []
  | t, b :: bs => xorBytes (aes256 key (xorBytes b t)) t ++ xtsBlocks key (nextTweak t) bs

/-- XTS-AES-256 of a data unit of whole blocks: the key pair, data key in the low half; the tweak as a number (R182). -/
def xtsEncrypt (keys : BitVec 512) (tweak : Nat) (bs : List Byte) : List Byte :=
  (xtsBlocks (keys.truncate 256) (aes256 ((keys >>> 256).truncate 256) (bytes16 tweak)) (blocks16 bs)).map (BitVec.ofNat 8)

/-- The subkey of CMAC for a message of whole blocks: doubled, bytes most significant first. -/
def cmacSubkey (key : BitVec 256) : List Nat :=
  let n := 2 * ofBytes16 (aes256 key (bytes16 0)).reverse
  (bytes16 (if n < 2 ^ 128 then n else (n - 2 ^ 128) ^^^ 0x87)).reverse

/-- The chain of CMAC over the blocks that remain. -/
def cmacChain (key : BitVec 256) (sub : List Nat) : List Nat → List (List Nat) → List Nat
  | c, [] => c
  | c, [b] => aes256 key (xorBytes (xorBytes c b) sub)
  | c, b :: bs => cmacChain key sub (aes256 key (xorBytes c b)) bs

/-- AES-256-CMAC of a message of whole blocks, at least one. -/
def cmac256 (key : BitVec 256) (bs : List Byte) : List Byte :=
  (cmacChain key (cmacSubkey key) (bytes16 0) (blocks16 bs)).map (BitVec.ofNat 8)

/-- One bit of the CRC. -/
def crcBit (c : BitVec 64) : BitVec 64 := if c.msb then (c <<< 1) ^^^ 0x42F0E1EBA9EA3693 else c <<< 1

/-- One byte of the CRC: polynomial of ECMA-182, no reflection (R282). -/
def crcByte (c : BitVec 64) (b : Byte) : BitVec 64 :=
  let c := c ^^^ (BitVec.ofNat 64 b.toNat <<< 56)
  crcBit (crcBit (crcBit (crcBit (crcBit (crcBit (crcBit (crcBit c)))))))

/-- CRC-64 of a byte string: initial value 0, no final XOR (R282). -/
def crc64 (bs : List Byte) : Word := bs.foldl crcByte 0

end Sys2Proof.Machine
end

