-- ==== Sys2Proof/Machine/Num.lean ====
section
/-! DEFINITION. Number formats (chapter 05): exact values, the eleven formats, one-step rounding, block scales, the whey
remainder, and the binary32 operations of vector chains and updates (R106, R153, R161). -/

namespace Sys2Proof.Machine

/-! ### Exact values -/

/-- What an element stands for: NaN, an infinity, or `m * 2 ^ e` exactly. -/
inductive Val where
  | nan
  | inf (neg : Bool)
  | fin (m : Int) (e : Int)
  deriving DecidableEq, Repr

/-- `2 ^ k` for a shift that may be negative (0 then). -/
def pow2 (k : Int) : Nat := 2 ^ k.toNat

def Val.isFin : Val → Bool
  | .fin _ _ => true
  | _ => false

/-- Add exactly, with the special values of IEEE 754. -/
def Val.add : Val → Val → Val
  | .nan, _ => .nan
  | _, .nan => .nan
  | .inf a, .inf b => if a = b then .inf a else .nan
  | .inf a, _ => .inf a
  | _, .inf b => .inf b
  | .fin m e, .fin n f => let g := min e f; .fin (m * pow2 (e - g) + n * pow2 (f - g)) g

/-- Multiply exactly, with the special values of IEEE 754. -/
def Val.mul : Val → Val → Val
  | .nan, _ => .nan
  | _, .nan => .nan
  | .inf a, .inf b => .inf (a != b)
  | .inf a, .fin m _ => if m = 0 then .nan else .inf (a != decide (m < 0))
  | .fin m _, .inf b => if m = 0 then .nan else .inf (b != decide (m < 0))
  | .fin m e, .fin n f => .fin (m * n) (e + f)

/-- Multiply by a power of two. -/
def Val.scale (k : Int) : Val → Val
  | .fin m e => .fin m (e + k)
  | v => v

def Val.neg : Val → Val
  | .fin m e => .fin (-m) e
  | .inf b => .inf (!b)
  | .nan => .nan

/-- `m * 2 ^ e ≤ n * 2 ^ f` for magnitudes. -/
def magLe (m : Nat) (e : Int) (n : Nat) (f : Int) : Bool :=
  let g := min e f
  decide (m * pow2 (e - g) ≤ n * pow2 (f - g))

/-- The exponent of the leading bit of `m * 2 ^ e`, m > 0. -/
def topExp (m : Nat) (e : Int) : Int := (Nat.log2 m : Int) + e

/-- Take a larger magnitude: pairs of significand and exponent. -/
def maxMag (a b : Nat × Int) : Nat × Int := if magLe a.1 a.2 b.1 b.2 then b else a

/-! ### Formats (R122) -/

/-- A floating-point format: significand precision, exponent of the smallest normal, exponent bits, bias, largest
finite value, infinity and NaN encodings. -/
structure Fmt where
  p : Nat
  emin : Int
  ebits : Nat
  bias : Int
  maxM : Nat
  maxE : Int
  hasInf : Bool
  nanCode : Option Nat
  deriving DecidableEq, Repr

/-- The format of a code (R118, R122, R123). Codes 8 and 9 are the integers and have no entry of their own. -/
def fmtOf : Nat → Fmt
  | 0 => ⟨24, -126, 8, 127, 16777215, 104, true, some 0x7FC00000⟩
  | 1 => ⟨11, -14, 5, 15, 2047, 5, true, some 0x7E00⟩
  | 2 => ⟨8, -126, 8, 127, 255, 120, true, some 0x7FC0⟩
  | 3 => ⟨3, -14, 5, 15, 7, 13, true, some 0x7E⟩
  | 4 => ⟨4, -6, 4, 7, 7, 6, false, some 0x7F⟩
  | 5 => ⟨3, -2, 3, 3, 7, 2, false, none⟩
  | 6 => ⟨4, 0, 2, 1, 15, -1, false, none⟩
  | _ => ⟨2, 0, 2, 1, 3, 1, false, none⟩

def isInt (fmt : Nat) : Bool := fmt == 8 || fmt == 9
/-- Bits of one element (R124). -/
def fmtBits : Nat → Nat
  | 0 => 32
  | 1 => 16
  | 2 => 16
  | 3 => 8
  | 4 => 8
  | 5 => 6
  | 6 => 6
  | 7 => 4
  | 8 => 8
  | _ => 4
/-- Elements of a block by its code (R118); 0 for code 0, no block scale. -/
def blkSize : Nat → Nat
  | 1 => 16
  | 2 => 32
  | 3 => 64
  | 4 => 128
  | _ => 0
/-- A format that can carry block scales: FP8, FP6, FP4 (R127). -/
def canScale (fmt : Nat) : Bool := decide (3 ≤ fmt) && decide (fmt ≤ 7)

/-- An integer element of `n` bits. -/
def signed (n w : Nat) : Int := if w < 2 ^ (n - 1) then (w : Int) else (w : Int) - 2 ^ n

/-- The value of an encoding (R122, R123). -/
def decodeElem (fmt w : Nat) : Val :=
  if fmt = 8 then .fin (signed 8 (w % 256)) 0
  else if fmt = 9 then .fin (signed 4 (w % 16)) 0
  else
    let f := fmtOf fmt
    let mb := f.p - 1
    let neg := w.testBit (mb + f.ebits)
    let ex := (w >>> mb) % 2 ^ f.ebits
    let mant := w % 2 ^ mb
    let sg : Nat → Int := fun n => if neg then -(n : Int) else (n : Int)
    if f.hasInf && ex == 2 ^ f.ebits - 1 then (if mant = 0 then .inf neg else .nan)
    else if fmt == 4 && ex == 15 && mant == 7 then .nan
    else if ex = 0 then .fin (sg mant) (f.emin - mb)
    else .fin (sg (2 ^ mb + mant)) (ex - f.bias - mb)

/-- The encoding is a subnormal (R141). -/
def isSubnormal (fmt w : Nat) : Bool :=
  let f := fmtOf fmt
  !isInt fmt && (w >>> (f.p - 1)) % 2 ^ f.ebits == 0 && w % 2 ^ (f.p - 1) != 0

/-- An element with its block's E8M0 scale code (R105): 0xFF makes the element NaN. -/
def scaled (v : Val) (code : Nat) : Val := if code = 0xFF then .nan else v.scale ((code : Int) - 127)

/-! ### Rounding (R129) -/

/-- Round the magnitude `m * 2 ^ e`, m > 0, to a precision: significand and exponent of the unit. `d` is the
stochastic draw; rnd is 0 nearest even, 1 toward zero, 2 stochastic. -/
def roundMag (p : Nat) (emin : Int) (rnd d m : Nat) (e : Int) : Nat × Int :=
  let u := max (topExp m e) emin - p + 1
  if u ≤ e then (m * pow2 (e - u), u)
  else
    let sh := (u - e).toNat
    let r := m >>> sh
    let rem := m % 2 ^ sh
    let up := match rnd with
      | 0 => decide (2 ^ sh < 2 * rem) || (2 * rem == 2 ^ sh && r % 2 == 1)
      | 1 => false
      | _ => decide (d < rem * 2 ^ 16 / 2 ^ sh)
    (if up then r + 1 else r, u)

/-- The encoding of a magnitude that the format holds: `r * 2 ^ u` with r from `roundMag`, r > 0. -/
def encodeMag (f : Fmt) (r : Nat) (u : Int) : Nat :=
  let top := topExp r u
  if top < f.emin then r
  else
    let mb := f.p - 1
    let sig := if Nat.log2 r ≤ mb then r * 2 ^ (mb - Nat.log2 r) else r >>> (Nat.log2 r - mb)
    (top + f.bias).toNat * 2 ^ mb + (sig - 2 ^ mb)

/-- What a conversion counted (R130, R132, R133): elements saturated, overflowed, non-finite, clamped, integer
saturated. -/
structure ConvCount where
  sat : Nat := 0
  ovf : Nat := 0
  nonfinite : Nat := 0
  clamp : Nat := 0
  intSat : Nat := 0
  deriving DecidableEq, Repr

def ConvCount.add (a b : ConvCount) : ConvCount :=
  { sat := a.sat + b.sat, ovf := a.ovf + b.ovf, nonfinite := a.nonfinite + b.nonfinite, clamp := a.clamp + b.clamp,
    intSat := a.intSat + b.intSat }

/-- The sign bit of a format. -/
def signBit (f : Fmt) : Nat := 2 ^ (f.p - 1 + f.ebits)
def withSign (f : Fmt) (neg : Bool) (w : Nat) : Nat := if neg then w + signBit f else w
/-- The encoding of infinity. -/
def infCode (f : Fmt) : Nat := (2 ^ f.ebits - 1) * 2 ^ (f.p - 1)
/-- The encoding of the largest finite value. -/
def maxCode (f : Fmt) : Nat := encodeMag f f.maxM f.maxE

/-- The bits of an integer in a format of `n` bits. -/
def intBits (n : Nat) (i : Int) : Nat := (i % 2 ^ n).toNat

/-- Convert one exact finite value (R129, R130): its encoding and what it counted. -/
def convertFin (fmt rnd : Nat) (sat nf2 : Bool) (d : Nat) (m e : Int) : Nat × ConvCount :=
  let neg := decide (m < 0)
  let n := m.natAbs
  if n = 0 then (0, {})
  else if isInt fmt then
    let bits := fmtBits fmt
    -- the unit is 1 whatever the magnitude
    let mag := if 0 ≤ e then n * pow2 e
      else
        let sh := (-e).toNat
        let r := n >>> sh
        let rem := n % 2 ^ sh
        let up := match rnd with
          | 0 => decide (2 ^ sh < 2 * rem) || (2 * rem == 2 ^ sh && r % 2 == 1)
          | 1 => false
          | _ => decide (d < rem * 2 ^ 16 / 2 ^ sh)
        if up then r + 1 else r
    let lim := if neg then 2 ^ (bits - 1) else 2 ^ (bits - 1) - 1
    if lim < mag then (intBits bits (if neg then -(lim : Int) else lim), { intSat := 1 })
    else (intBits bits (if neg then -(mag : Int) else mag), {})
  else
    let f := fmtOf fmt
    let ru := roundMag f.p f.emin rnd d n e
    if ru.1 = 0 then (0, {})
    else if !magLe ru.1 ru.2 f.maxM f.maxE then
      if f.hasInf then
        if sat then (withSign f neg (maxCode f), { sat := 1 }) else (withSign f neg (infCode f), { ovf := 1 })
      else if fmt = 4 then
        if sat then (withSign f neg (maxCode f), { sat := 1 }) else (0x7F, { ovf := 1 })
      else (withSign f neg (maxCode f), { sat := 1 })
    else if nf2 && decide (topExp ru.1 ru.2 < f.emin) then (0, {})
    else (withSign f neg (encodeMag f ru.1 ru.2), {})

/-- Convert any value to a target without block scale (R132). -/
def convertVal (fmt rnd : Nat) (sat nf2 : Bool) (d : Nat) : Val → Nat × ConvCount
  | .fin m e => convertFin fmt rnd sat nf2 d m e
  | .nan =>
    if isInt fmt then (0, { nonfinite := 1 })
    else match (fmtOf fmt).nanCode with
      | some c => (c, if fmt = 4 then { nonfinite := 1 } else {})
      | none => (0, { nonfinite := 1 })
  | .inf neg =>
    if isInt fmt then
      let bits := fmtBits fmt
      (intBits bits (if neg then -(2 ^ (bits - 1) : Int) else 2 ^ (bits - 1) - 1), { nonfinite := 1 })
    else
      let f := fmtOf fmt
      if f.hasInf then (withSign f neg (infCode f), {})
      else if fmt = 4 then (0x7F, { nonfinite := 1 })
      else (withSign f neg (maxCode f), { nonfinite := 1 })

/-! ### Block scales (R133) -/

/-- emax of R133, by format code. -/
def emaxOf : Nat → Int
  | 3 => 15
  | 4 => 8
  | 5 => 4
  | 6 => 2
  | _ => 2

/-- The smallest e with amax * 2^-e ≤ maxfin (FIT), before clamping. -/
def fitExp (fmt : Nat) (a : Nat) (x : Int) : Int :=
  let f := fmtOf fmt
  let e := topExp a x - topExp f.maxM f.maxE
  if magLe a (x - e) f.maxM f.maxE then e else e + 1

/-- The largest magnitude of a block. -/
def amax (vs : List Val) : Nat × Int :=
  vs.foldl (fun acc v => match v with
    | .fin m e => if m = 0 then acc else if acc.1 = 0 then (m.natAbs, e) else maxMag acc (m.natAbs, e)
    | _ => acc) (0, 0)

/-- The exponent a block gets, and whether it was clamped. rule: 0 FIT, 1 OCP, 2 FIXED. -/
def blockExp (fmt rule fixed : Nat) (vs : List Val) : Int × Bool :=
  let a := amax vs
  let e : Int := if rule = 2 then (fixed : Int) - 127 else if a.1 = 0 then -127
    else if rule = 0 then fitExp fmt a.1 a.2 else topExp a.1 a.2 - emaxOf fmt
  if e < -127 then (-127, true) else if 127 < e then (127, true) else (e, false)

/-- A conversion word (R127). -/
structure Conv where
  fixed : Nat
  nf2 : Bool
  rule : Nat
  rnd : Nat
  sat : Bool
  blk : Nat
  fmt : Nat
  rsv : Bool
  deriving DecidableEq, Repr

def convOf (w : BitVec 32) : Conv :=
  { fixed := fld w 31 24, nf2 := bitAt w 20, rule := fld w 19 18, rnd := fld w 17 16, sat := bitAt w 15,
    blk := fld w 14 12, fmt := fld w 11 8, rsv := fld w 23 21 != 0 || fld w 7 0 != 0 }

/-- What one block becomes: its scale code, its elements, what it counted. Inputs come with their draws. -/
def convertBlock (c : Conv) (vs : List (Val × Nat)) : Nat × List Nat × ConvCount :=
  if vs.any (fun v => !v.1.isFin) then (0xFF, vs.map (fun _ => 0), { nonfinite := 1 })
  else
    let ec := blockExp c.fmt c.rule c.fixed (vs.map Prod.fst)
    let rs := vs.map (fun v => convertVal c.fmt c.rnd c.sat c.nf2 v.2 (v.1.scale (-ec.1)))
    ((ec.1 + 127).toNat, rs.map Prod.fst,
      rs.foldl (fun a r => a.add r.2) { clamp := bnum ec.2 })

/-- A row of elements converted: the scale codes of its blocks, its elements padded with +0 to a block boundary
(R125), what it counted. `fuel` bounds the number of blocks. -/
def convertRow (c : Conv) : Nat → List (Val × Nat) → List Nat × List Nat × ConvCount
  | 0, _ => ([], [], {})
  | fuel + 1, vs =>
    if vs.isEmpty then ([], [], {})
    else if c.blk = 0 then
      let rs := vs.map (fun v => convertVal c.fmt c.rnd c.sat c.nf2 v.2 v.1)
      ([], rs.map Prod.fst, rs.foldl (fun a r => a.add r.2) {})
    else
      let b := blkSize c.blk
      let h := convertBlock c (vs.take b)
      let t := convertRow c fuel (vs.drop b)
      (h.1 :: t.1, (h.2.1 ++ List.replicate (b - (vs.take b).length) 0) ++ t.2.1, h.2.2.add t.2.2)

/-! ### binary32 (R106, R153, R161) -/

abbrev F32 := BitVec 32

def nan32 : F32 := 0x7FC00000
def f32Val (w : F32) : Val := decodeElem 0 w.toNat
/-- A binary32 input of a conversion: under NF2 a subnormal reads as zero (R141) (DEDUCED, log 81). -/
def f32In (nf2 : Bool) (w : F32) : Val := if nf2 && fld w 30 23 == 0 then .fin 0 0 else f32Val w
def f32Neg (w : F32) : Bool := bitAt w 31
def f32IsNan (w : F32) : Bool := f32Val w == .nan
def f32IsZero (w : F32) : Bool := fld w 30 0 == 0
def f32Zero (neg : Bool) : F32 := if neg then 0x80000000 else 0
def f32Inf (neg : Bool) : F32 := if neg then 0xFF800000 else 0x7F800000

/-- Round a value to binary32, to nearest with ties to even (rne32 of R106). A zero takes the given sign. -/
def rne32s (zneg : Bool) : Val → F32
  | .nan => nan32
  | .inf neg => f32Inf neg
  | .fin m e =>
    if m = 0 then f32Zero zneg
    else
      let r := (convertFin 0 0 false false 0 m e).1
      if r = 0 then f32Zero (decide (m < 0)) else BitVec.ofNat 32 r

/-- rne32 with every zero +0 (R106). -/
def rne32 (v : Val) : F32 := match rne32s false v with
  | w => if f32IsZero w then 0 else w

/-- a * b + c with one rounding and the special values of IEEE 754. -/
def f32Fma (a b c : F32) : F32 :=
  let p := (f32Val a).mul (f32Val b)
  let v := p.add (f32Val c)
  let pneg := f32Neg a != f32Neg b
  match v with
  | .fin m _ =>
    if m = 0 then
      let pz := match p with
        | .fin n _ => n == 0
        | _ => false
      f32Zero (pz && pneg && f32Neg c)
    else rne32s false v
  | _ => rne32s false v

def f32One : F32 := 0x3F800000
def f32Flip (a : F32) : F32 := a ^^^ 0x80000000
/-- −a: NaN stays the one NaN. -/
def f32Negate (a : F32) : F32 := if f32IsNan a then nan32 else f32Flip a
def f32Abs (a : F32) : F32 := if f32IsNan a then nan32 else a &&& 0x7FFFFFFF
def f32Add (a b : F32) : F32 := f32Fma f32One a b
def f32Sub (a b : F32) : F32 := f32Fma f32One a (f32Negate b)
def f32Mul (a b : F32) : F32 := f32Fma a b 0x80000000

/-- a > b on values that are not NaN. -/
def f32Gt (a b : F32) : Bool :=
  match f32Val a, f32Val b with
  | .nan, _ => false
  | _, .nan => false
  | .inf x, .inf y => !x && y
  | .inf x, _ => !x
  | _, .inf y => y
  | .fin m e, .fin n f => let g := min e f; decide (n * pow2 (f - g) < m * pow2 (e - g))

/-- MAX of R153: NaN if either is NaN, −0 below +0. -/
def f32Max (a b : F32) : F32 :=
  if f32IsNan a || f32IsNan b then nan32
  else if f32IsZero a && f32IsZero b then (if f32Neg a then b else a)
  else if f32Gt b a then b else a
def f32Min (a b : F32) : F32 :=
  if f32IsNan a || f32IsNan b then nan32
  else if f32IsZero a && f32IsZero b then (if f32Neg a then a else b)
  else if f32Gt a b then b else a

/-- Round a positive magnitude known to lie at or just above `n * 2 ^ e`: `inexact` says it is not equal. -/
def rneSticky (neg : Bool) (n : Nat) (e : Int) (inexact : Bool) : F32 :=
  let v : Nat := 2 * n + bnum inexact
  if v = 0 then f32Zero neg
  else
    let w := rne32s false (.fin (if neg then -(v : Int) else v) (e - 1))
    if f32IsZero w then f32Zero neg else w

/-- a / b (R153). -/
def f32Div (a b : F32) : F32 :=
  let neg := f32Neg a != f32Neg b
  match f32Val a, f32Val b with
  | .nan, _ => nan32
  | _, .nan => nan32
  | .inf _, .inf _ => nan32
  | .inf _, _ => f32Inf neg
  | _, .inf _ => f32Zero neg
  | .fin m e, .fin n f =>
    if n = 0 then (if m = 0 then nan32 else f32Inf neg)
    else if m = 0 then f32Zero neg
    else
      let num := m.natAbs * 2 ^ 64
      rneSticky neg (num / n.natAbs) (e - f - 64) (num % n.natAbs != 0)

/-- The integer square root, bit by bit from bit `k` down. -/
def isqrtGo (n : Nat) : Nat → Nat → Nat
  | 0, r => if (r + 1) * (r + 1) ≤ n then r + 1 else r
  | k + 1, r => let t := r + 2 ^ (k + 1); isqrtGo n k (if t * t ≤ n then t else r)
def isqrt (n : Nat) : Nat := if n = 0 then 0 else isqrtGo n (Nat.log2 n / 2 + 1) 0

/-- √a (R153). -/
def f32Sqrt (a : F32) : F32 :=
  match f32Val a with
  | .nan => nan32
  | .inf neg => if neg then nan32 else f32Inf false
  | .fin m e =>
    if m = 0 then f32Zero (f32Neg a)
    else if m < 0 then nan32
    else
      let odd := e % 2 ≠ 0
      let n := (if odd then 2 * m.natAbs else m.natAbs) * 2 ^ 64
      let e' := (if odd then e - 1 else e) - 64
      let r := isqrt n
      rneSticky false r (e' / 2) (r * r != n)

/-- 1 / √a (R153). -/
def f32Rsqrt (a : F32) : F32 :=
  match f32Val a with
  | .nan => nan32
  | .inf neg => if neg then nan32 else 0
  | .fin m e =>
    if m = 0 then f32Inf (f32Neg a)
    else if m < 0 then nan32
    else
      let odd := e % 2 ≠ 0
      let x := if odd then 2 * m.natAbs else m.natAbs
      let e' := if odd then e - 1 else e
      let r := isqrt (2 ^ 160 / x)
      rneSticky false r (-(e' / 2) - 80) (r * r * x != 2 ^ 160)

/-! ### Transcendental operations (R153)

Each is computed in fixed point with more than a hundred bits beyond binary32 and rounded once (UNVERIFIED, log 23: no
argument of binary32 lies so close to a rounding point). -/

/-- floor (ln 2 * 2^256). -/
def ln2Fix : Nat := 0xb17217f7d1cf79abc9e3b39803f2f6af40f343267298b62d8a0d175b8baafa2b
/-- The fixed-point unit, 2^256. -/
def fixOne : Nat := 2 ^ 256

/-- The Taylor sum of e^x for a fixed-point 0 ≤ x < 1: the terms from `i` on. -/
def expSum (x : Nat) : Nat → Nat → Nat → Nat → Nat
  | 0, _, _, acc => acc
  | k + 1, i, term, acc => expSum x k (i + 1) (term * x / fixOne / i) (acc + term)

/-- e^x in fixed point for a fixed-point 0 ≤ x < 1. -/
def expFix (x : Nat) : Nat := expSum x 64 1 fixOne 0

/-- A finite binary32 as a fixed-point integer, rounded down. -/
def toFix (m e : Int) : Int :=
  if 0 ≤ e + 256 then m * pow2 (e + 256) else m / (pow2 (-(e + 256)) : Int)

/-- 2^y as fixed-point mantissa in [1, 2) and exponent, y fixed point. -/
def exp2Fix (y : Int) : Nat × Int :=
  let k := y / (fixOne : Int)
  let f := (y % (fixOne : Int)).toNat
  (expFix (f * ln2Fix / fixOne), k)

/-- x / ln 2 in fixed point, x fixed point. -/
def divLn2 (x : Int) : Int := x * (fixOne : Int) / (ln2Fix : Int)

/-- 2^a, result inexact unless a is an integer. -/
def f32Exp2 (a : F32) : F32 :=
  match f32Val a with
  | .nan => nan32
  | .inf neg => if neg then 0 else f32Inf false
  | .fin m e =>
    if 0 < m && topExp m.natAbs e ≥ 8 then f32Inf false
    else if m < 0 && topExp m.natAbs e ≥ 8 then 0
    else
      let y := toFix m e
      if y % (fixOne : Int) = 0 then rneSticky false 1 (y / (fixOne : Int)) false
      else let r := exp2Fix y; rneSticky false r.1 (r.2 - 256) true

/-- e^a. -/
def f32Exp (a : F32) : F32 :=
  match f32Val a with
  | .nan => nan32
  | .inf neg => if neg then 0 else f32Inf false
  | .fin m e =>
    if m = 0 then f32One
    else if topExp m.natAbs e ≥ 8 then (if 0 < m then f32Inf false else 0)
    else let r := exp2Fix (divLn2 (toFix m e)); rneSticky false r.1 (r.2 - 256) true

/-- The first `k` binary digits of log2 of a fixed-point x in [1, 2). -/
def log2Digits : Nat → Nat → Nat → Nat
  | 0, _, acc => acc
  | k + 1, x, acc =>
    let y := x * x / fixOne
    if 2 * fixOne ≤ y then log2Digits k (y / 2) (2 * acc + 1) else log2Digits k y (2 * acc)

/-- log2 a. -/
def f32Log2 (a : F32) : F32 :=
  match f32Val a with
  | .nan => nan32
  | .inf neg => if neg then nan32 else f32Inf false
  | .fin m e =>
    if m = 0 then f32Inf true
    else if m < 0 then nan32
    else
      let n := m.natAbs
      let k := topExp n e
      if n = 2 ^ Nat.log2 n then rne32s false (.fin k 0)
      else
        let x := n * fixOne / 2 ^ Nat.log2 n
        -- digits of the fraction, the result lies just above k + digits / 2^128
        let v : Int := k * (2 : Int) ^ 128 + log2Digits 128 x 0
        rne32s false (.fin (2 * v + 1) (-129))

/-- tanh a: below 2^-13 the result rounds to a itself. -/
def f32Tanh (a : F32) : F32 :=
  match f32Val a with
  | .nan => nan32
  | .inf neg => if neg then f32Negate f32One else f32One
  | .fin m e =>
    if m = 0 then a
    else if topExp m.natAbs e < -13 then a
    else if topExp m.natAbs e ≥ 5 then (if m < 0 then f32Negate f32One else f32One)
    else
      -- tanh x = (1 - q) / (1 + q), q = e^-2x, for x > 0
      let r := exp2Fix (divLn2 (toFix (-(2 * m.natAbs : Nat) : Int) e))
      let q := if 0 ≤ r.2 then r.1 * pow2 r.2 else r.1 / pow2 (-r.2)
      rneSticky (decide (m < 0)) ((fixOne - q) * fixOne / (fixOne + q)) (-256) true

/-- 1 / (1 + e^-a). -/
def f32Sigmoid (a : F32) : F32 :=
  match f32Val a with
  | .nan => nan32
  | .inf neg => if neg then 0 else f32One
  | .fin m e =>
    if m = 0 then 0x3F000000
    else if topExp m.natAbs e ≥ 8 then (if 0 < m then f32One else 0)
    else
      -- e^x / (1 + e^x) for x < 0, with e^x = mant * 2^k; 1 / (1 + e^-x) for x > 0
      let r := exp2Fix (divLn2 (toFix (-(m.natAbs : Int)) e))
      let q := if 0 ≤ r.2 then r.1 * pow2 r.2 else r.1 / pow2 (-r.2)
      if 0 < m then rneSticky false (fixOne * fixOne / (fixOne + q)) (-256) true
      else rneSticky false (r.1 * fixOne / (fixOne + q)) (r.2 - 256) true

/-! ### The whey remainder (R138) -/

/-- p and w after an update u: the new p, the new w, what was counted. -/
def applyWhey (p u : F32) (w : Nat) : F32 × Nat × ConvCount :=
  let wv := decodeElem 2 w
  let sv := rne32 ((f32Val u).add wv)
  let ex := (f32Val p).add (f32Val sv)
  let pn := rne32 ex
  match f32Val pn with
  | .fin m e =>
    let c := convertVal 2 0 false false 0 (ex.add (.fin (-m) e))
    (pn, c.1, c.2)
  | .inf _ => (pn, 0, if ex.isFin then { ovf := 1 } else {})
  | .nan => (pn, 0, {})

end Sys2Proof.Machine
end

