-- ==== Sys2Proof/Machine/Codes.lean ====
section
/-! DEFINITION. The package-wide status codes of R213. -/

namespace Sys2Proof.Machine.Status

def ok : Code := 0x0000
def illegalInState : Code := 0x0101
def descFieldRange : Code := 0x0102
def seqLimit : Code := 0x0103
def seqMismatch : Code := 0x0104
def ringOverrun : Code := 0x0105
def regionFenced : Code := 0x0106
def curdNotOwned : Code := 0x0201
def curdReadOnly : Code := 0x0202
def pageNotOwned : Code := 0x0203
def pageAssigned : Code := 0x0204
def pageKeyMissing : Code := 0x0205
def pageIntegrityFail : Code := 0x0206
def memUncorrectable : Code := 0x0207
def bootSupplyFault : Code := 0x0301
def bootRefclkFail : Code := 0x0302
def bootThermal : Code := 0x0303
def bootFlashFail : Code := 0x0304
def bootFwAuthFail : Code := 0x0305
def bootD2dFail : Code := 0x0306
def bootHbmFail : Code := 0x0307
def bootSelftestFail : Code := 0x0308
def bootWidthBelowBin : Code := 0x0309
def imgDmaFail : Code := 0x0401
def imgLength : Code := 0x0402
def imgBadMagic : Code := 0x0403
def imgVersion : Code := 0x0404
def imgPartMismatch : Code := 0x0405
def imgFieldRange : Code := 0x0406
def imgSlotActive : Code := 0x0407
def imgBusy : Code := 0x0408
def imgKeyUnknown : Code := 0x0409
def imgSigFail : Code := 0x040A
def imgRollback : Code := 0x040B
def imgSectionTable : Code := 0x040C
def imgBypassMismatch : Code := 0x040D
def imgCurdOverlap : Code := 0x040E
def imgQueueOverlap : Code := 0x040F
def imgPortRoleDup : Code := 0x0410
def imgTenantMismatch : Code := 0x0411
def imgResidentMismatch : Code := 0x0412
def turnBusy : Code := 0x0501
def turnNoImage : Code := 0x0502
def turnBadParam : Code := 0x0503
def turnDrainTimeout : Code := 0x0504
def turnPressFail : Code := 0x0505
def turnAborted : Code := 0x0506
def shardAbsent : Code := 0x0507
def streamSkew : Code := 0x0701
def pairNotIndependent : Code := 0x0702
def pairDegraded : Code := 0x0703
def busy : Code := 0x0801
def keySweepBusy : Code := 0x0802
def tenantRevoked : Code := 0x0803

end Sys2Proof.Machine.Status
end

