-- ==== Sys2Proof/Config.lean ====
section
/-! DEFINITION. What one package fixes, and the values the spec leaves open.
Every constant here is opaque: it has no body, nothing can evaluate it, and a statement about it holds for every
value. Log 1 (free values), log 2 (cryptographic functions), log 3 (fused identity). -/

namespace Sys2Proof.Config

/-- DESIGN CHOICE (log 1). Free values: draw `n` of the values the spec leaves open (counter advances of R40 and
the like). The counter `State.free` numbers the draws. -/
opaque freeWord : Nat → BitVec 64

/-- DESIGN CHOICE (log 1). Fresh random key material (R335, R346, R350): draw `n`. -/
opaque randomKey : Nat → BitVec 768

/-- UNVERIFIED (log 2). SHA-384 of a byte string (R83, R340, R354). -/
opaque sha384 : List Byte → BitVec 384

/-- UNVERIFIED (log 2). ECDSA over P-384 with SHA-384 (R72): key record of 96 bytes, digest, SIG_R and SIG_S. -/
opaque ecdsaVerify : List Byte → BitVec 384 → List Byte → Bool

/-- UNVERIFIED (log 2). The point of a 96-byte key record lies on P-384 (R337). -/
opaque onCurve : List Byte → Bool

/-- UNVERIFIED (log 2). AES-256-GCM sealing (R349): key, 12-byte nonce, additional data, plaintext to ciphertext
and 16-byte tag. -/
opaque gcmSeal : BitVec 256 → List Byte → List Byte → List Byte → List Byte × List Byte

/-- UNVERIFIED (log 2). AES-256-GCM opening (R349): key, nonce, additional data, ciphertext, tag. -/
opaque gcmOpen : BitVec 256 → List Byte → List Byte → List Byte → List Byte → Option (List Byte)

/-- UNVERIFIED (log 2). The firmware check of R335: the security version of an image that verifies under the
Harvayn firmware key, or none. The spec gives the image no field layout. -/
opaque firmwareSvn : List Byte → Option (BitVec 16)

/-- DESIGN CHOICE (log 3). The package serial identity (R80, R319). -/
opaque serial : BitVec 64

/-- DESIGN CHOICE (log 3). The bin fused into the package: true for -A, false for -B (R1, R59). -/
opaque binA : Bool

/-- DESIGN CHOICE (log 3). The 96-byte Harvayn image key that slot 0 holds from the factory (R337). -/
opaque factoryImageKey : List Byte

/-- DESIGN CHOICE (log 44). The one CRC that a COMPARE of SCOPE 0 takes over the pending records of a restore, in a layout
that the spec does not give (R325): from those records' bytes. -/
opaque restoreCrc : List Byte → BitVec 64

/-- UNVERIFIED (log 2). Payload of an SPDM response whose bytes the spec leaves to SPDM 1.2 (R339): response kind
and draw. -/
opaque spdmPayload : Nat → Nat → List Byte

/-- UNVERIFIED (log 2). The certificates of the chain of R339: the Harvayn root and intermediate, the device identity's for the
identity key, the alias's for the alias key. -/
opaque rootCertificate : List Byte
opaque intermediateCertificate : List Byte
opaque identityCertificate : BitVec 384 → List Byte
opaque aliasCertificate : BitVec 384 → List Byte

/-- UNVERIFIED (log 2). ECDSA signing over P-384 with SHA-384 (R339): key, draw, message. -/
opaque ecdsaSign : BitVec 384 → Nat → List Byte → List Byte

/-- UNVERIFIED (log 2). The device's share of an ECDHE exchange on secp384r1 (R339): draw, the requester's share. -/
opaque ecdheShare : Nat → BitVec 768 → List Byte

/-- UNVERIFIED (log 2). The ROM of a Troroik (R335, R340). -/
opaque rom : List Byte

/-- DESIGN CHOICE (log 116). The firmware that a flash is shipped with (R55), and its signed configuration. -/
opaque factoryFirmware : List Byte
opaque factoryConfiguration : List Byte

/-- UNVERIFIED (log 2). The P-384 key pairs of R335: the device identity, from the secret fused into the package; the alias,
from the identity and the digest of the running firmware. -/
opaque identityKey : BitVec 384
opaque aliasKey : BitVec 384 → BitVec 384 → BitVec 384

/-- DESIGN CHOICE (log 1). The sign of a NaN, for which R161 states no result: of the value whose sign is taken. -/
opaque signOfNan : BitVec 32 → BitVec 32

/-- DESIGN CHOICE (log 66). The errors that strike stored bits in a nanosecond, by draw: the Vat word or the HBM codeword, by
its key, and whether two bits or bytes of it go bad at once (R167, R185). -/
opaque struckVat : Nat → Option (Nat × Bool)
opaque struckHbm : Nat → Option (Nat × Bool)

/-- DESIGN CHOICE (log 46). The bytes of a measurement block (R340) from the values that stand in it, whose layout the spec
does not give: block number, values, further bytes. -/
opaque measured : Nat → List (BitVec 64) → List Byte → List Byte

end Sys2Proof.Config
end

