-- ==== Sys2Proof/Machine/State.lean ====
section
/-! DEFINITION. The state of the package: plain data, every piece of state the spec gives it (INVENTORY.md, '## State').
The value after `:=` is the field's reset value: the one the spec gives or, where the docstring says so, one the
model names. Arrays are sparse: a key that is not listed holds the named default (`SMap`, Machine/SMap.lean). -/

namespace Sys2Proof.Machine

/-- A sparse array: keys strictly rising, no entry equal to the default its reader names. -/
abbrev SMap (α : Type) := List (Nat × α)

/-! ### Event sources and the log (chapter 09) -/

/-- One event source (R215): its flag, its 16-bit counter, its PENDING bit. A flag that a register bit names is
stored here and nowhere else (R214). -/
structure Source where
  flag : Bool := false
  count : BitVec 16 := 0
  pend : Bool := false
  deriving DecidableEq, Repr

/-- A record on its way to the Thyme log (R226 to R228), and an entry of the log. -/
structure LogRec where
  time : Word
  event : BitVec 16
  code : Code
  detail : Word
  source : BitVec 14
  deriving DecidableEq, Repr

/-- An entry of the Thyme log (R226): a record, its sequence number, its merged occurrences. -/
structure LogEntry where
  time : Word := 0
  seq : BitVec 32 := 0
  code : Code := 0
  event : BitVec 16 := 0
  detail : Word := 0
  repeats : BitVec 16 := 0
  source : BitVec 14 := 0
  die : BitVec 2 := 0
  spanUs : BitVec 32 := 0
  deriving DecidableEq, Repr

/-- The record INT_PF_NEST holds beside its flag (R222). -/
structure Nest where
  notFound : Bool := false
  empty : Bool := false
  expected : BitVec 8 := 0
  given : BitVec 8 := 0
  deriving DecidableEq, Repr

/-- The MSI-X state of a function that the host writes (R218). PRESUMED (log 13): PCIe resets it to disabled and
masked; a vector that is not listed is masked. -/
structure Msix where
  enable : Bool := false
  functionMask : Bool := false
  unmasked : List (BitVec 8) := []
  deriving DecidableEq, Repr

/-! ### Counter blocks (chapter 01) -/

/-- A counter block of R40, its BYPASSED count excepted (that comes from the bypass set). -/
structure Block where
  eventSel : BitVec 8 := 0
  freeze : Bool := false
  gate : Bool := false
  /-- GATED: the cluster is power-gated now; `waking` holds while R28's wake time runs. -/
  gated : Bool := false
  waking : Bool := false
  hs : Word := 0
  busyNs : Word := 0
  waitInNs : Word := 0
  waitOutNs : Word := 0
  gatedNs : Word := 0
  event : Word := 0
  deriving DecidableEq, Repr

/-! ### Queues, entries and the ledger (chapter 08) -/

/-- A 64-byte descriptor as its eight little-endian words, named by their offsets (R20, R193). -/
structure Desc where
  w00 : Word
  w08 : Word
  w10 : Word
  w18 : Word
  w20 : Word
  w28 : Word
  w30 : Word
  w38 : Word
  deriving DecidableEq, Repr

/-- How far an entry has come (R197 to R199): fetched; started; ended by its engine with a status; closed, its
completion record written while an earlier entry still runs. -/
inductive EntryStat where
  | fetched
  | started
  | ended (c : Code)
  | closed (c : Code)
  deriving DecidableEq, Repr

/-- A chain slot (R151): operation words up to the first END, eight scalars, tenant tag, and whether it was loaded. -/
structure Chain where
  ops : List (BitVec 32) := []
  scalars : List (BitVec 32) := []
  tag : Option Nat := none
  loaded : Bool := false
  deriving DecidableEq, Repr

/-- A stream slot (R264). -/
structure Stream where
  key : BitVec 128 := 0
  purpose : BitVec 16 := 0
  step : BitVec 32 := 0
  microbatch : BitVec 16 := 0
  layer : BitVec 16 := 0
  tenant : Nat := 0
  keyed : Bool := false
  bound : Bool := false
  deriving DecidableEq, Repr

/-- An entry the device has fetched. Once its engine has granted it: `grant` numbers the grant, `chain`, `stream` and
`transport` are the copies it took of its chain slot, its stream slot and its tenant's transport key (R112, R151, R264,
R349). -/
structure Entry where
  seq : Nat
  desc : Desc
  stat : EntryStat
  grant : Nat := 0
  chain : Option Chain := none
  stream : Option Stream := none
  transport : Option (BitVec 256) := none
  deriving DecidableEq, Repr

/-- The drain point of a queue in a turn (R89): none outside a drain, at COMMITTED, or at the first commit entry
beyond the COMMITTED it had at START. -/
inductive DrainPoint where
  | off
  | here
  | nextCommit (committedAtStart : Nat)
  deriving DecidableEq, Repr

/-- One queue: the registers of R211, the halt, the entries on the device, and the queue's ledger record (R204):
`ledAcc` is the ledger's accepted cursor, `cur0`/`cur1` its two cursor slots with the commit numbers that tag them.
`tail` is the greatest TAIL_SEQ whose write into the ledger is still to be done (R195). -/
structure Queue where
  ringBase : Word := 0
  cplBase : Word := 0
  log2 : Nat := 6
  cgroup : BitVec 8 := 0
  paired : Bool := false
  enable : Bool := false
  owner : Nat := 0
  accepted : Nat := 0
  done : Nat := 0
  committed : Nat := 0
  solo : Bool := false
  heldByPartner : Bool := false
  halted : Bool := false
  haltCode : Code := 0
  haltSeq : Nat := 0
  tail : Nat := 0
  ackWaiting : Bool := false
  resetWaiting : Bool := false
  disableWaiting : Bool := false
  drain : DrainPoint := .off
  entries : List Entry := []
  ledAcc : Nat := 0
  cur0 : Nat := 0
  tag0 : Option Nat := some 0
  cur1 : Nat := 0
  tag1 : Option Nat := none
  deriving DecidableEq, Repr

/-- What a prepared commit will do when phase 2 is written (R203, R204, R273, R274, R326). -/
structure Prepared where
  num : Nat
  kind : BitVec 2
  tag : Word
  banks : BitVec 16
  dataPos : Word
  replay : Bool
  restoring : Bool
  deriving DecidableEq, Repr

/-- A die's group record in the ledger (R204). `current` are the CURRENT bits of the sixteen bank entries as the commit of
`num` left them. -/
structure GroupLed where
  num : Nat := 0
  prep : Option Prepared := none
  kind : BitVec 2 := 0
  tag : Word := 0
  banks : BitVec 16 := 0
  dataPos : Word := 0
  replay : Bool := false
  current : BitVec 16 := 0
  time : Word := 0
  deriving DecidableEq, Repr

/-! ### Memory (chapter 07) -/

/-- A page's tag (R180): its header, and its MAC. HBM holds the page as plain bytes (DESIGN CHOICE, log 65). -/
structure PageTag where
  owner : Nat := 0
  epoch : BitVec 2 := 0
  cls : BitVec 2 := 0
  enc : Bool := false
  poison : Bool := false
  assigned : Bool := false
  mac : BitVec 96 := 0
  deriving DecidableEq, Repr

/-- The stored condition of a Vat word or an HBM codeword (R167, R185): sound, one bad bit or byte that is corrected, or
uncorrectable (DESIGN CHOICE, log 66). -/
inductive Cond where
  | sound
  | correctable
  | uncorrectable
  deriving DecidableEq, Repr

/-- What the HBM of a die does (R59, R172): not trained since power-on, kept in self-refresh by a reset, or in service. -/
inductive HbmState where
  | untrained
  | selfRefresh
  | inService
  deriving DecidableEq, Repr

/-- A stack's registers beside its flags (R189), and the position of its patrol scrub (R186). -/
structure Stack where
  lastPage : BitVec 27 := 0
  lost : Bool := false
  ceCount : Word := 0
  ueCount : Word := 0
  scrubPos : Nat := 0
  scrubbed : Bool := false
  deriving DecidableEq, Repr

/-- A parameter bank entry (R188). -/
structure PBank where
  base0 : BitVec 30 := 0
  base1 : BitVec 30 := 0
  pages : BitVec 30 := 0
  tenant : BitVec 7 := 0
  valid : Bool := false
  current : Bool := false
  deriving DecidableEq, Repr

/-! ### Images (chapter 03) -/

/-- A Grenoa image that passed the checks of R82: header fields, records by section, and all its bytes. -/
structure Image where
  kind : BitVec 2
  keyIndex : BitVec 8
  generation : BitVec 32
  imageId : Word
  length : Nat
  bytes : SMap Byte
  pairing : List Word
  curds : List Word
  queues : List Word
  routes : List Word
  coord : Word
  ports : List Word
  formats : Word
  policy : Word
  vfEnable : Word
  serial : Word
  bypass : List Word
  deriving DecidableEq, Repr

/-- An image slot (R83, R94): the resident image with the digest that Troroik holds of it, and the register fields beside its
DISCARDED flag. -/
structure Slot where
  image : Option Image := none
  digest : BitVec 384 := 0
  code : Code := 0
  erasing : Bool := false
  deriving DecidableEq, Repr

/-- STATE of IMG_TURN_STATUS (R94). -/
inductive TurnState where
  | idle
  | drain
  | switch
  | press
  | await
  | flip
  | rollback
  deriving DecidableEq, Repr

/-- What IMG_LOAD_CTL started (R81, R85): a load, of the address and length that stood in the registers, `turn` if it was
written while a turn was in progress (R92); or a discard. -/
inductive LoadWork where
  | none
  | loading (addr : Word) (len : BitVec 32) (turn : Bool)
  | discarding (kind : BitVec 2)
  deriving DecidableEq, Repr

/-- The image and turn registers of R94 and what a turn or a discard in progress holds (R85 to R93). -/
structure Img where
  loadAddr : Word := 0
  loadLen : BitVec 32 := 0
  discardKind : BitVec 2 := 0
  loadCode : Code := 0
  failOffset : BitVec 32 := 0
  work : LoadWork := .none
  serve : Slot := {}
  learn : Slot := {}
  deadlineUs : BitVec 16 := 0
  drainLimitUs : BitVec 16 := 0
  target : BitVec 2 := 0
  pressCount : BitVec 22 := 0
  pressBase : BitVec 42 := 0
  expected : BitVec 22 := 0
  mapBase : BitVec 42 := 0
  present : BitVec 32 := 0
  absent : BitVec 32 := 0
  /-- Where the press wrote the local copy of a shard: its address and its bytes (R295, R296). A shard that is not listed
  stands where the target table says. -/
  copies : SMap (Option (BitVec 42 × Nat)) := []
  weightsNext : BitVec 42 := 0
  activeWeights : BitVec 42 := 0
  turnCode : Code := 0
  turnState : TurnState := .idle
  structKind : BitVec 2 := 0
  activeKind : BitVec 2 := 0
  turnCount : BitVec 24 := 0
  tStart : Word := 0
  tSwitch : Word := 0
  tPress : Word := 0
  tFlip : Word := 0
  /-- ABORT written during the switch, which takes effect when the switch ends (R91). -/
  abortWaiting : Bool := false
  /-- A part that took part was fenced before the switch ended (R88, R92). -/
  switchFenced : Bool := false
  /-- The code a rollback in progress sets at its end (R91). -/
  rollCode : Code := 0
  deriving DecidableEq, Repr

/-! ### Array, vector and number formats (chapters 04 to 06) -/

/-- A half-array's stationary record (R120). -/
structure Stationary where
  tenant : Nat
  addr : BitVec 26
  scale : BitVec 26
  stride : BitVec 16
  fmt : BitVec 4
  blk : BitVec 3
  phase : BitVec 7
  trans : Bool
  k : Nat
  n : Nat
  role : Option Bool
  deriving DecidableEq, Repr

/-- An accumulator bank: held by vector read-out (R110) and its tag of tenant and numeric kind (R111). -/
structure Bank where
  held : Bool := false
  tag : Option (Nat × Bool) := none
  deriving DecidableEq, Repr

/-! ### Records in committed and pending halves (R234, R266, R304) -/

/-- A record with a committed half and a pending half; `group` is the commit group that wrote the pending half. `trail` holds
what each entry of the interval wrote, newest first, by queue and SEQ: the effects of an entry that a halt stops are taken
out of it (R199). -/
structure Halves (α : Type) where
  com : α
  pend : Option α
  group : Nat
  trail : List ((Nat × Nat) × α) := []
  deriving DecidableEq, Repr

/-- A request context (R233). STATE: 0 free, 1 active, 2 paused. -/
structure Ctx where
  state : BitVec 2 := 0
  tenant : Nat := 0
  group : Nat := 0
  cls : BitVec 3 := 0
  turn : BitVec 24 := 0
  pool : BitVec 3 := 0
  chainAddr : Nat := 0
  maxLen : Nat := 0
  len : Nat := 0
  wrEnd : Nat := 0
  sharedLen : Nat := 0
  pfx : Option Nat := none
  adapter : Option (Nat × Nat) := none
  statusAddr : Nat := 0
  statusHbm : Bool := false
  deriving DecidableEq, Repr

/-- A prefix record (R245). STATE: 0 free, 1 live, 2 retiring. REFS is counted from the records (R247). -/
structure Pfx where
  state : BitVec 2 := 0
  tenant : Nat := 0
  handle : Word := 0
  pool : BitVec 3 := 0
  len : Nat := 0
  turn : BitVec 24 := 0
  adapter : Option (Nat × Nat) := none
  parent : Option Nat := none
  addr : Nat := 0
  deriving DecidableEq, Repr

/-- A generation of an adapter (R250): its number and one part per die (address, pages). -/
structure Gen where
  num : Nat
  parts : List (Nat × Nat)
  deriving DecidableEq, Repr

/-- An adapter slot (R250, R251). -/
structure Adapter where
  tenant : Option Nat := none
  cur : Option Gen := none
  old : Option Gen := none
  retiring : Bool := false
  lastNum : Nat := 0
  deriving DecidableEq, Repr

/-- A KV pool's registers (R240, R257). -/
structure Pool where
  base : BitVec 30 := 0
  blocks : BitVec 30 := 0
  valid : Bool := false
  tpb : BitVec 13 := 0
  layers : BitVec 9 := 0
  tokenBytes : BitVec 16 := 0
  tenant : BitVec 7 := 0
  deriving DecidableEq, Repr

/-- A die's learning record (R270). -/
structure Learn where
  pos : Word := 0
  sps : BitVec 32 := 0
  spm : BitVec 32 := 0
  valid : Bool := false
  deriving DecidableEq, Repr

/-- The committed and pending part of a job record (R304): four history codes, the newest in bits 7:0 (R309). -/
structure Job where
  tenant : Nat := 0
  run : BitVec 8 := 0
  nextBucket : BitVec 24 := 0
  hist : BitVec 32 := 0
  histValid : Bool := false
  deriving DecidableEq, Repr

/-- The plain part of a job record (R304). -/
structure JobPlain where
  lost : Bool := false
  raises : BitVec 32 := 0
  deriving DecidableEq, Repr

/-! ### Links and collectives (chapter 12) -/

/-- STATE of LNK_PORT_STATUS (R279). -/
inductive PortState where
  | absent
  | down
  | training
  | up
  | miswired
  deriving DecidableEq, Repr

/-- A frame in the replay buffer (R286): its link-level fields, with which it is sent each time (DESIGN CHOICE, log 132), and how
often it has been sent. -/
structure Sent where
  hdr : LinkHdr
  sends : Nat
  frame : Frame
  deriving DecidableEq, Repr

/-- A shard that lost a frame on a port (R287): its number, DIST and HOPS, and the tenant of the frame. -/
structure LostShard where
  w1 : Word
  tenant : BitVec 7
  deriving DecidableEq, Repr

/-- A package port (R278 to R291, R309). `waiting` are frames not yet sent, in order, each with
the port it came in by (8 when it arose here); `lastIn` is the ingress a VC served last; `held` are received frames that
flow control holds (R88, R291); `credit` counts the receive
buffers the peer has free for a VC and class (64 each: R285), `freed` the buffers to return. -/
structure Port where
  lanes : BitVec 4 := 0
  state : PortState := .absent
  replayLimit : BitVec 4 := 8
  crcCount : Word := 0
  replayCount : Word := 0
  staleCount : Word := 0
  lostCount : Word := 0
  txSeq : BitVec 12 := 0
  rxSeq : BitVec 12 := 0
  unacked : List Sent := []
  waiting : List (Nat × Frame) := []
  lastIn : SMap Nat := []
  held : List Frame := []
  credit : SMap Nat := []
  freed : SMap Nat := []
  lastVc : BitVec 2 := 0
  nakDue : Bool := false
  peer : Option PeerId := none
  lostShards : List LostShard := []
  lostMarkers : List Frame := []
  peerSent : Word := 0
  peerArrival : Word := 0
  /-- SENT_NS of the last timestamp frames sent here under the present time base, newest first (log 37). -/
  sentNs : List Word := []
  /-- Twice the offset in ns of this package from the neighbour, as the last exchange found it while its frames showed SET
  (R37), and that neighbour's ROOT_OFFSET. -/
  offset : Option (Int × Int) := none
  /-- The neighbour is set: its last timestamp frame since the port came up showed SET (R37, R38). -/
  partnerSet : Bool := false
  deriving DecidableEq, Repr

/-- A member die's started entry of a bucket (R297): its queue, SEQ and descriptor, the encodings it read from SRC, and
the status with which its results have formed. -/
structure BucketEntry where
  die : DieId
  queue : Nat
  seq : Nat
  desc : Desc
  src : List (BitVec 32)
  formed : Option Code
  deriving DecidableEq, Repr

/-- A bucket of a job in progress on the package (R297 to R303). `ready`: every member die of the package has posted.
`stage` counts the dimensions of the reduce phase, then those of the gather phase. `vals` are the partial or final
sums, and in the gather phase the delivered encodings; `fin` marks the elements finished in the present stage. `inbox`
holds frames that came early, each with its port. `code` is the run code so far, `closing` the state of the closing
exchange (3 k + 0 awaits the maximum in dimension k, 3 k + 1 its return). `counted` lists the conversion flags this
bucket has raised (R136). -/
structure Bucket where
  entries : List BucketEntry := []
  ready : Bool := false
  stage : Nat := 0
  vals : SMap (BitVec 32) := []
  fin : SMap Bool := []
  inbox : List (Nat × Frame) := []
  code : BitVec 8 := 0
  closing : Nat := 0
  codeKnown : Bool := false
  formed : Bool := false
  counted : List Nat := []
  deriving DecidableEq, Repr

/-! ### Checkpoint and pair (chapter 13) -/

/-- The part that a die has in the Hold of a commit group (R317): the slot it writes, the time base at its start, and whether it
has sealed the slot. -/
structure Hold where
  group : Nat
  slot : Nat
  start : Word
  sealed : Bool
  deriving DecidableEq, Repr

/-- A snapshot slot's registers (R314, R332). STATE: 0 empty, 1 writing, 2 sealed, 3 draining, 4 receiving. `group` is
the commit group whose SNAPSHOT or DRAIN uses the slot, while one does. -/
structure CkptSlot where
  base : BitVec 30 := 0
  pages : BitVec 30 := 0
  state : BitVec 3 := 0
  step : Word := 0
  group : Nat := 0
  deriving DecidableEq, Repr

/-- A restore that awaits its commit on a die (R323, R326). -/
structure Restoring where
  group : Nat
  step : Word
  dataPos : Word
  banksUsed : BitVec 16
  verify : Bool
  mismatches : Nat
  crcs : List Word
  verified : Bool
  deriving DecidableEq, Repr

/-- What the partner has said and what this side owes (R206, R312, R321 to R325). -/
structure Pair where
  timeoutMs : BitVec 16 := 10
  partnerFeed : BitVec 8 := 0
  halted : Bool := false
  acc : SMap Nat := []
  start : SMap Nat := []
  prepared : SMap Bool := []
  committed : SMap Bool := []
  crcs : SMap (Option (List Word)) := []
  facts : SMap (Option (Bool × Word)) := []
  receipt : SMap (List Byte) := []
  sealed : SMap (Option Bool) := []
  refused : SMap Bool := []
  deriving DecidableEq, Repr

/-! ### Security (chapter 14) -/

/-- STATE of SEC_TENANT (R346). -/
inductive TenantState where
  | absent
  | active
  | removing
  deriving DecidableEq, Repr

/-- A key slot (R183): its epoch, its XTS key pair (the data key in the low half) and its MAC key. -/
structure KeySlot where
  epoch : BitVec 2
  xts : BitVec 512
  mac : BitVec 256
  deriving DecidableEq, Repr

/-- A tenant's keys and state (R183, R341, R346, R350, R351). `sweeping` holds a bit for each die whose sweep has not
ended, `sweepBad` that a page has failed in it. `remover` is the REMOVE entry in progress, by queue and SEQ; `removeFrom`
is the step of R351 a REMOVE issued again resumes at. -/
structure Tenant where
  state : TenantState := .absent
  slot0 : Option KeySlot := none
  slot1 : Option KeySlot := none
  newest : BitVec 2 := 0
  older : BitVec 2 := 0
  olderValid : Bool := false
  sweeping : BitVec 4 := 0
  sweep : Bool := false
  sweepFailed : Bool := false
  sweepBad : Bool := false
  transport : Option (BitVec 256) := none
  exportCtr : Word := 0
  remover : Option (Nat × Nat) := none
  removeFrom : Nat := 0
  deriving DecidableEq, Repr

/-- An image-signing key slot (R337). STATE: 0 empty, 1 enrolled, 2 revoked. -/
structure ImgKey where
  state : BitVec 2 := 0
  key : List Byte := []
  deriving DecidableEq, Repr

/-- What SEC_IMGKEY_CTL started (R337). -/
inductive KeyOp where
  | none
  | enroll (slot : BitVec 3) (addr : Word)
  | revoke (slot : BitVec 3)
  deriving DecidableEq, Repr

/-- What an SPDM mailbox answered last (R339, R341, R352): a response of a kind with its bytes, ResponseNotReady, or
a refusal. -/
inductive SpdmRsp where
  | none
  | rsp (kind : Nat) (payload : List Byte)
  | notReady
  | refused
  deriving DecidableEq, Repr

/-- A record of the sealed store (R338): its version number, whether it authenticates, its value. -/
structure Stored (α : Type) where
  ver : Nat := 0
  auth : Bool := true
  val : α
  deriving DecidableEq, Repr

/-- A sealed non-volatile store (R338): the generation floors (R84), the firmware floor (R336) and the image-signing key
slots with their states (R337), and nothing else. It outlives every reset and the removal of every rail. Slot 0 holds the
Harvayn key from the factory (DESIGN CHOICE, log 78). -/
structure Store where
  genServe : Stored (BitVec 32) := { val := 0 }
  genLearn : Stored (BitVec 32) := { val := 0 }
  fwFloor : Stored (BitVec 16) := { val := 0 }
  imgKeys : SMap (Stored ImgKey) := [(0, { val := { state := 1, key := Config.factoryImageKey } })]
  deriving DecidableEq, Repr

/-- An SPDM mailbox (R339): algorithms negotiated; session 0 none, 1 in handshake, 2 established; key updates made; last
answer. -/
structure Spdm where
  algs : List SpdmAlg := []
  session : BitVec 2 := 0
  keyUpdates : Nat := 0
  answer : SpdmRsp := .none
  deriving DecidableEq, Repr

/-- An IDE stream (R342): key programmed, and while established the range it covers in the BAR0 of a function. -/
structure Ide where
  stream : IdeStream
  key : BitVec 256
  range : Option (Nat × Word × Word)
  deriving DecidableEq, Repr

/-- What a region of a die's flash holds (R55): what it was shipped with, or bytes that an update wrote. -/
inductive FlashContent where
  | factory
  | bytes (bs : List Byte)
  deriving DecidableEq, Repr

/-- The security registers and keys (R335 to R354). -/
structure Sec where
  tenants : SMap Tenant := []
  keyAddr : Word := 0
  keySlot : BitVec 3 := 0
  keyCode : Code := 0
  keyOp : KeyOp := .none
  fwAddr : Word := 0
  fwLen : BitVec 32 := 0
  fwCode : Code := 0
  fwBusy : Bool := false
  fwSource : List Byte := []
  telemUs : BitVec 32 := 0x3E8
  loadPct : BitVec 8 := 0
  alive : BitVec 4 := 0
  keyBusyCount : Word := 0
  overload : Bool := false
  spdm : SMap Spdm := []
  ide : List Ide := []
  deriving DecidableEq, Repr

/-! ### Power, clocks, start-up (chapter 02) -/

/-- The power and start-up registers of R68 and the pins, clocks and regulator state behind them (R45 to R67). The
regulator starts at 750 mV (R47). -/
structure Power where
  pwrgd : Bool := false
  perst : Bool := true
  /-- The rails that are out of range (R45). DESIGN CHOICE (log 12): none at reset. -/
  railsOut : List Rail := []
  refA : Bool := true
  refB : Bool := true
  refBActive : Bool := false
  /-- The dies whose LNK_REFCLK has stopped, a bit each (R51). -/
  linkRefOff : BitVec 4 := 0
  /-- The functions whose power state is D3hot; the others are in D0 (R53). -/
  d3hot : List Nat := []
  linkUp : Bool := false
  linkDegraded : Bool := false
  lost : Bool := false
  /-- PWRGD has fallen (R58), or the thermal trip acted (R67): doorbells are not acknowledged. -/
  doorbellsOff : Bool := false
  hbmOff : Bool := false
  tripLatch : Bool := false
  /-- THERMTRIP_N is asserted (R67). -/
  tripPin : Bool := false
  feedId : BitVec 8 := 0
  bootCode : Code := 0
  bootDie : BitVec 2 := 0
  /-- Time since PWRGD in ns, of which ELAPSED_US shows the µs. -/
  elapsedNs : Nat := 0
  bootFailed : Bool := false
  bootStep : BitVec 3 := 0
  ready : Bool := false
  /-- A start-up is running; `bootFrom` is the step it began at, `bootPor` whether step 4 initialises HBM. -/
  booting : Bool := false
  bootFrom : BitVec 3 := 0
  bootPor : Bool := false
  capW : BitVec 11 := 0x708
  vmaxMv : BitVec 10 := 0x2EE
  requestMv : BitVec 10 := 0x2EE
  ackMv : BitVec 10 := 0x2EE
  avsBad : Bool := false
  capOn : Bool := true
  capResume : Bool := false
  capActive : Bool := false
  thermalHold : Bool := false
  samples : List (BitVec 16) := []
  powerW : BitVec 16 := 0
  /-- The model's own trace: the last configuration request completed with Request Retry Status (R54, log 14). -/
  rrs : Bool := false
  deriving DecidableEq, Repr

/-- The time base (R37 to R39): its value, whether it counts, whether it has been set, and the last sample time (R42).
ALIGNED and OFFSET_NS follow from the offsets of the ports. `slew` is the part of the offset in ns that the rate is still to
correct, `sinceSlew` counts the ns since the last correction of 1 ns (R37). -/
structure Time where
  now : Word := 0
  running : Bool := false
  set : Bool := false
  sample : Word := 0
  slew : Int := 0
  sinceSlew : Nat := 0
  deriving DecidableEq, Repr

/-- A die's own registers and engines. -/
structure Die where
  coreMv : BitVec 16 := 0
  rateMhz : BitVec 16 := 0
  tjMin : BitVec 8 := 0
  tjMax : BitVec 8 := 0
  /-- The records last applied to this die (R88); none before a turn and after a removal (R85). -/
  image : Option Image := none
  /-- The records that a fenced region keeps where others have since been applied to the die (R91). -/
  keptWest : Option (Option Image) := none
  keptEast : Option (Option Image) := none
  /-- The firmware that this die's Troroik runs since its step 2, and whether it booted from copy B (R335). -/
  firmware : FlashContent := .factory
  copyB : Bool := false
  hbm : HbmState := .untrained
  fenced : Bool := false
  fencedWest : Bool := false
  fencedEast : Bool := false
  d2dDown : BitVec 4 := 0
  /-- Step of the start-up that a die reset runs, 0 while none (R62); 2 for a Troroik's rerun of step 2. -/
  bootStep : BitVec 3 := 0
  /-- A die reset acted while step 2 ran for the Troroik: its steps follow that one (R64). -/
  resetDue : Bool := false
  /-- A die reset's self-test found a fault outside the bypass set: the die returns only with a start-up of the package that
  reruns step 5 (R63). -/
  keptOut : Bool := false
  colsWest : BitVec 512 := 0
  colsEast : BitVec 512 := 0
  wWest : Nat := 0
  wEast : Nat := 0
  lanes0 : BitVec 9 := 0
  lanes1 : BitVec 9 := 0
  lanes2 : BitVec 9 := 0
  lanes3 : BitVec 9 := 0
  lanesOff0 : BitVec 9 := 0
  lanesOff1 : BitVec 9 := 0
  lanesOff2 : BitVec 9 := 0
  lanesOff3 : BitVec 9 := 0
  statWest : Option Stationary := none
  statEast : Option Stationary := none
  violCode : Code := 0
  violCurd : BitVec 10 := 0
  violQueue : BitVec 10 := 0
  violCount : Word := 0
  vatCeAddr : BitVec 26 := 0
  vatCeCount : Word := 0
  stack0 : Stack := {}
  stack1 : Stack := {}
  stack2 : Stack := {}
  integFail : Word := 0
  keyMissing : Word := 0
  scrubNs : Word := 0
  sweepRate : BitVec 16 := 0x64
  sweepTenant : BitVec 7 := 0
  sweepActive : Bool := false
  sweepPos : Nat := 0
  sweepFailed : BitVec 24 := 0
  sweepNext : List Nat := []
  satCount : Word := 0
  ovfCount : Word := 0
  nonfiniteCount : Word := 0
  clampCount : Word := 0
  intSatCount : Word := 0
  updSkip : Word := 0
  updParams : Word := 0
  streamSel : BitVec 11 := 0
  learn : Halves Learn := { com := {}, pend := none, group := 0 }
  learnStep : BitVec 32 := 0
  tokens : SMap Word := []
  nest : Nest := {}
  pfStack : List (BitVec 8 × BitVec 4) := []
  switchHold : Bool := false
  logNext : BitVec 32 := 1
  logDrops : Word := 0
  coalesceUs : BitVec 16 := 0x3E8
  logQueue : List LogRec := []
  tenantDrops : Word := 0
  /-- The list position of this die's press in a turn (R295): the next descriptor to look at. -/
  pressNext : Nat := 0
  holdUs : BitVec 32 := 0
  holds : List Hold := []
  restoring : Option Restoring := none
  mismatchCount : Word := 0
  deriving DecidableEq, Repr

/-- The state of the block. Keys: a die is d, a queue Q = 1024 d + q (R190), an event source 16384 d + s (package
sources stand under d = 4: R217), a curd or a page by its package number, a slot, context, prefix or job under its
die (R151, R232, R245, R264, R309), a port by its package number. -/
structure State where
  /-- The commands that wait, the first at the front. -/
  pending : List Instr := []
  power : Power := {}
  time : Time := {}
  img : Img := {}
  sec : Sec := {}
  /-- The sealed store as the Troroiks have loaded it, and each die's own copy of it (R338). -/
  store : Store := {}
  stores : SMap Store := []
  /-- The regions of each die's flash that no longer hold what they were shipped with (R55). -/
  flash : SMap FlashContent := []
  pair : Pair := {}
  dies : SMap Die := []
  queues : SMap Queue := []
  groups : SMap GroupLed := []
  srcs : SMap Source := [(4 * 16384 + 0x1D00, { flag := true })]
  msix : SMap Msix := []
  gHold : Bool := false
  groupBits : BitVec 3 := 2
  blocks : SMap Block := []
  vat : SMap Byte := []
  vatCond : SMap Cond := []
  hbm : SMap Byte := []
  tags : SMap PageTag := []
  hbmCond : SMap Cond := []
  host : SMap Byte := []
  pbanks : SMap PBank := []
  acc : SMap (BitVec 32) := []
  banks : SMap Bank := []
  /-- What the cells of the half-arrays hold, element encoding and scale code, and their shadow copies (R95): 0 at power-on, and
  kept over every other reset (DESIGN CHOICE, log 124). -/
  cells : SMap (Nat × Nat) := []
  shadows : SMap (Nat × Nat) := []
  chains : SMap Chain := []
  streams : SMap (Halves Stream) := []
  ctxs : SMap (Halves Ctx) := []
  pfxs : SMap (Halves Pfx) := []
  adapters : SMap (Halves Adapter) := []
  pools : SMap Pool := []
  ckpts : SMap CkptSlot := []
  ports : SMap Port := []
  jobs : SMap (Halves Job) := []
  jobPlain : SMap JobPlain := []
  buckets : SMap Bucket := []
  shardTable : BitVec 42 := 0
  pressCode : Code := 0
  pressIndex : BitVec 22 := 0
  resendRefused : Bool := false
  dist : SMap (BitVec 16) := []
  log : SMap LogEntry := []
  /-- The model's own traces of what left: MSI-X messages (die, function, vector) and deliveries to a Troroik (die,
  source), newest first (log 14). -/
  msixOut : List (Nat × Nat × Nat) := []
  troroikOut : List (Nat × Nat) := []
  /-- The number of grants made, and of each queue the number of its last grant by an engine, counted from 1, or 0 (R112). -/
  grants : Nat := 0
  lastGrant : SMap Nat := []
  /-- The model's own counter of free values drawn (log 1). -/
  free : Nat := 0
  deriving DecidableEq, Repr

/-- The state right after a reset at power-on: every field at its reset value, waiting for PWRGD (R62, R68). -/
def State.reset : State := {}

/-- The reasons for which the block would stop with a fault: there are none. Every failure the spec describes is a
status code, a fence, a lost package or a failed start-up, and all of these are next states. -/
inductive Fault : Type
  deriving DecidableEq, Repr

/-- The reasons for which a command has no meaning. `notModelled` stands in arms of exec only; safe. -/
inductive Refusal where
  /-- The named row has no meaning yet; raised by an arm of exec, safe. -/
  | notModelled (mnemonic : String)
  deriving DecidableEq, Repr

/-- What a command answers. -/
abbrev Res := Host.Outcome State Fault Refusal

end Sys2Proof.Machine
end

