-- ==== Sys2Proof/Machine/SMap.lean ====
section
/-! DEFINITION. Sparse arrays in one canonical form: keys strictly rising, no entry equal to the default.
The default is an argument of the reader, so that a byte map reads 0 and a queue map reads the reset queue. -/

namespace Sys2Proof.Machine.SMap

/-- What the array holds at a key. -/
def get {α : Type} (dflt : α) : SMap α → Nat → α
  | [], _ => dflt
  | (k, v) :: m, i => if k = i then v else get dflt m i

/-- Put a value at a key, in order. -/
def ins {α : Type} : SMap α → Nat → α → SMap α
  | [], i, v => [(i, v)]
  | (k, w) :: m, i, v =>
    if i < k then (i, v) :: (k, w) :: m
    else if i = k then (i, v) :: m
    else (k, w) :: ins m i v

/-- Drop every entry whose key satisfies `p`: those keys read the default again. -/
def eraseIf {α : Type} (p : Nat → Bool) (m : SMap α) : SMap α := m.filter (fun e => !p e.1)

/-- Write a value at a key. Writing the default drops the entry. -/
def set {α : Type} [DecidableEq α] (dflt : α) (m : SMap α) (i : Nat) (v : α) : SMap α :=
  if v = dflt then eraseIf (fun k => k == i) m else ins m i v

/-- Change the value at a key. -/
def modify {α : Type} [DecidableEq α] (dflt : α) (m : SMap α) (i : Nat) (f : α → α) : SMap α :=
  set dflt m i (f (get dflt m i))

/-- Change every listed value by its key. The array is built anew, so that the result is in canonical form. -/
def mapAll {α : Type} [DecidableEq α] (dflt : α) (f : Nat → α → α) (m : SMap α) : SMap α :=
  m.foldr (fun e acc => set dflt acc e.1 (f e.1 e.2)) []

/-- Write a run of values from a key on. -/
def setRun {α : Type} [DecidableEq α] (dflt : α) : SMap α → Nat → List α → SMap α
  | m, _, [] => m
  | m, i, v :: vs => setRun dflt (set dflt m i v) (i + 1) vs

/-- A run of `n` values from a key on. -/
def getRun {α : Type} (dflt : α) (m : SMap α) (i : Nat) : Nat → List α
  | 0 => []
  | n + 1 => get dflt m i :: getRun dflt m (i + 1) n

/-- The keys listed, in order. -/
def keys {α : Type} (m : SMap α) : List Nat := m.map Prod.fst

/-- Keys strictly rising. -/
def sorted {α : Type} : SMap α → Bool
  | [] => true
  | [_] => true
  | a :: b :: m => decide (a.1 < b.1) && sorted (b :: m)

/-- The canonical form. -/
def wf {α : Type} [DecidableEq α] (dflt : α) (m : SMap α) : Bool :=
  sorted m && m.all (fun e => e.2 != dflt)

end Sys2Proof.Machine.SMap
end

