-- ==== Sys2Proof/Machine/Ops.lean ====
section
/-! DEFINITION. The named operations over the state: one reader and one writer for every array of the state, the
byte runs of the memories, the keys under which parts stand, and records in halves. Every meaning goes through these. -/

namespace Sys2Proof.Machine

/-- A record that has no pending half. -/
def halves0 {α : Type} (a : α) : Halves α := { com := a, pend := none, group := 0, trail := [] }

/-- What the state holds as a die. -/
def State.die (s : State) (i : Nat) : Die := SMap.get {} s.dies i
/-- Replace it. -/
def State.setDie (s : State) (i : Nat) (v : Die) : State := { s with dies := SMap.set {} s.dies i v }
/-- Change it. -/
def State.modDie (s : State) (i : Nat) (g : Die → Die) : State := s.setDie i (g (s.die i))

/-- What the state holds as a queue (R190). -/
def State.queue (s : State) (i : Nat) : Queue := SMap.get {} s.queues i
/-- Replace it. -/
def State.setQueue (s : State) (i : Nat) (v : Queue) : State := { s with queues := SMap.set {} s.queues i v }
/-- Change it. -/
def State.modQueue (s : State) (i : Nat) (g : Queue → Queue) : State := s.setQueue i (g (s.queue i))

/-- What the state holds as a group record of the ledger (R204). -/
def State.group (s : State) (i : Nat) : GroupLed := SMap.get {} s.groups i
/-- Replace it. -/
def State.setGroup (s : State) (i : Nat) (v : GroupLed) : State := { s with groups := SMap.set {} s.groups i v }
/-- Change it. -/
def State.modGroup (s : State) (i : Nat) (g : GroupLed → GroupLed) : State := s.setGroup i (g (s.group i))

/-- What the state holds as an event source (R215). -/
def State.src (s : State) (i : Nat) : Source := SMap.get {} s.srcs i
/-- Replace it. -/
def State.setSrc (s : State) (i : Nat) (v : Source) : State := { s with srcs := SMap.set {} s.srcs i v }
/-- Change it. -/
def State.modSrc (s : State) (i : Nat) (g : Source → Source) : State := s.setSrc i (g (s.src i))

/-- What the state holds as the MSI-X state of a function (R218). -/
def State.msixOf (s : State) (i : Nat) : Msix := SMap.get {} s.msix i
/-- Replace it. -/
def State.setMsixOf (s : State) (i : Nat) (v : Msix) : State := { s with msix := SMap.set {} s.msix i v }
/-- Change it. -/
def State.modMsixOf (s : State) (i : Nat) (g : Msix → Msix) : State := s.setMsixOf i (g (s.msixOf i))

/-- What the state holds as a counter block (R40). -/
def State.block (s : State) (i : Nat) : Block := SMap.get {} s.blocks i
/-- Replace it. -/
def State.setBlock (s : State) (i : Nat) (v : Block) : State := { s with blocks := SMap.set {} s.blocks i v }
/-- Change it. -/
def State.modBlock (s : State) (i : Nat) (g : Block → Block) : State := s.setBlock i (g (s.block i))

/-- What the state holds as a Vat byte (R165, R166). -/
def State.vatByte (s : State) (i : Nat) : Byte := SMap.get 0 s.vat i
/-- Replace it. -/
def State.setVatByte (s : State) (i : Nat) (v : Byte) : State := { s with vat := SMap.set 0 s.vat i v }

/-- What the state holds as the condition of a Vat word (R167). -/
def State.vatCondAt (s : State) (i : Nat) : Cond := SMap.get .sound s.vatCond i
/-- Replace it. -/
def State.setVatCondAt (s : State) (i : Nat) (v : Cond) : State := { s with vatCond := SMap.set .sound s.vatCond i v }

/-- What the state holds as an HBM byte (R174). -/
def State.hbmByte (s : State) (i : Nat) : Byte := SMap.get 0 s.hbm i
/-- Replace it. -/
def State.setHbmByte (s : State) (i : Nat) (v : Byte) : State := { s with hbm := SMap.set 0 s.hbm i v }

/-- What the state holds as a page tag (R180). -/
def State.tag (s : State) (i : Nat) : PageTag := SMap.get {} s.tags i
/-- Replace it. -/
def State.setTag (s : State) (i : Nat) (v : PageTag) : State := { s with tags := SMap.set {} s.tags i v }
/-- Change it. -/
def State.modTag (s : State) (i : Nat) (g : PageTag → PageTag) : State := s.setTag i (g (s.tag i))

/-- What the state holds as the condition of an HBM codeword: codeword k holds the 32 bytes from 32 k on (R185). -/
def State.hbmCondAt (s : State) (i : Nat) : Cond := SMap.get .sound s.hbmCond i
/-- Replace it. -/
def State.setHbmCondAt (s : State) (i : Nat) (v : Cond) : State := { s with hbmCond := SMap.set .sound s.hbmCond i v }

/-- What the state holds as a byte of host memory (log 4). -/
def State.hostByte (s : State) (i : Nat) : Byte := SMap.get 0 s.host i
/-- Replace it. -/
def State.setHostByte (s : State) (i : Nat) (v : Byte) : State := { s with host := SMap.set 0 s.host i v }

/-- What the state holds as a region of a die's flash (R55): 4 d, 4 d + 1 the firmware copies A and B, 4 d + 2, 4 d + 3 their
configurations. -/
def State.flashOf (s : State) (i : Nat) : FlashContent := SMap.get .factory s.flash i
/-- Replace it. -/
def State.setFlash (s : State) (i : Nat) (v : FlashContent) : State := { s with flash := SMap.set .factory s.flash i v }

/-- What the state holds as a die's own copy of the sealed store (R338). -/
def State.storeOf (s : State) (d : Nat) : Store := SMap.get {} s.stores d
/-- Replace it. -/
def State.setStore (s : State) (d : Nat) (v : Store) : State := { s with stores := SMap.set {} s.stores d v }

/-- What the state holds as a cell of a half-array and as its shadow (R95). -/
def State.cell (s : State) (i : Nat) : Nat × Nat := SMap.get (0, 0) s.cells i
def State.shadow (s : State) (i : Nat) : Nat × Nat := SMap.get (0, 0) s.shadows i
/-- Replace them. -/
def State.setCell (s : State) (i : Nat) (v : Nat × Nat) : State := { s with cells := SMap.set (0, 0) s.cells i v }
def State.setShadow (s : State) (i : Nat) (v : Nat × Nat) : State := { s with shadows := SMap.set (0, 0) s.shadows i v }

/-- What the state holds as a parameter bank entry (R188). -/
def State.pbank (s : State) (i : Nat) : PBank := SMap.get {} s.pbanks i
/-- Replace it. -/
def State.setPbank (s : State) (i : Nat) (v : PBank) : State := { s with pbanks := SMap.set {} s.pbanks i v }
/-- Change it. -/
def State.modPbank (s : State) (i : Nat) (g : PBank → PBank) : State := s.setPbank i (g (s.pbank i))

/-- What the state holds as an accumulator entry (R109). -/
def State.accEntry (s : State) (i : Nat) : BitVec 32 := SMap.get 0 s.acc i
/-- Replace it. -/
def State.setAccEntry (s : State) (i : Nat) (v : BitVec 32) : State := { s with acc := SMap.set 0 s.acc i v }

/-- What the state holds as an accumulator bank (R110). -/
def State.bank (s : State) (i : Nat) : Bank := SMap.get {} s.banks i
/-- Replace it. -/
def State.setBank (s : State) (i : Nat) (v : Bank) : State := { s with banks := SMap.set {} s.banks i v }
/-- Change it. -/
def State.modBank (s : State) (i : Nat) (g : Bank → Bank) : State := s.setBank i (g (s.bank i))

/-- What the state holds as a chain slot (R151). -/
def State.chain (s : State) (i : Nat) : Chain := SMap.get {} s.chains i
/-- Replace it. -/
def State.setChain (s : State) (i : Nat) (v : Chain) : State := { s with chains := SMap.set {} s.chains i v }

/-- What the state holds as a stream slot (R264). -/
def State.stream (s : State) (i : Nat) : Halves Stream := SMap.get (halves0 {}) s.streams i
/-- Replace it. -/
def State.setStream (s : State) (i : Nat) (v : Halves Stream) : State := { s with streams := SMap.set (halves0 {}) s.streams i v }
/-- Change it. -/
def State.modStream (s : State) (i : Nat) (g : (Halves Stream) → (Halves Stream)) : State := s.setStream i (g (s.stream i))

/-- What the state holds as a request context (R233). -/
def State.ctx (s : State) (i : Nat) : Halves Ctx := SMap.get (halves0 {}) s.ctxs i
/-- Replace it. -/
def State.setCtx (s : State) (i : Nat) (v : Halves Ctx) : State := { s with ctxs := SMap.set (halves0 {}) s.ctxs i v }
/-- Change it. -/
def State.modCtx (s : State) (i : Nat) (g : (Halves Ctx) → (Halves Ctx)) : State := s.setCtx i (g (s.ctx i))

/-- What the state holds as a prefix record (R245). -/
def State.pfx (s : State) (i : Nat) : Halves Pfx := SMap.get (halves0 {}) s.pfxs i
/-- Replace it. -/
def State.setPfx (s : State) (i : Nat) (v : Halves Pfx) : State := { s with pfxs := SMap.set (halves0 {}) s.pfxs i v }
/-- Change it. -/
def State.modPfx (s : State) (i : Nat) (g : (Halves Pfx) → (Halves Pfx)) : State := s.setPfx i (g (s.pfx i))

/-- What the state holds as an adapter slot (R250). -/
def State.adapter (s : State) (i : Nat) : Halves Adapter := SMap.get (halves0 {}) s.adapters i
/-- Replace it. -/
def State.setAdapter (s : State) (i : Nat) (v : Halves Adapter) : State := { s with adapters := SMap.set (halves0 {}) s.adapters i v }
/-- Change it. -/
def State.modAdapter (s : State) (i : Nat) (g : (Halves Adapter) → (Halves Adapter)) : State := s.setAdapter i (g (s.adapter i))

/-- What the state holds as a KV pool (R240). -/
def State.pool (s : State) (i : Nat) : Pool := SMap.get {} s.pools i
/-- Replace it. -/
def State.setPool (s : State) (i : Nat) (v : Pool) : State := { s with pools := SMap.set {} s.pools i v }
/-- Change it. -/
def State.modPool (s : State) (i : Nat) (g : Pool → Pool) : State := s.setPool i (g (s.pool i))

/-- What the state holds as a snapshot slot (R314). -/
def State.ckpt (s : State) (i : Nat) : CkptSlot := SMap.get {} s.ckpts i
/-- Replace it. -/
def State.setCkpt (s : State) (i : Nat) (v : CkptSlot) : State := { s with ckpts := SMap.set {} s.ckpts i v }
/-- Change it. -/
def State.modCkpt (s : State) (i : Nat) (g : CkptSlot → CkptSlot) : State := s.setCkpt i (g (s.ckpt i))

/-- What the state holds as a package port (R278). -/
def State.port (s : State) (i : Nat) : Port := SMap.get {} s.ports i
/-- Replace it. -/
def State.setPort (s : State) (i : Nat) (v : Port) : State := { s with ports := SMap.set {} s.ports i v }
/-- Change it. -/
def State.modPort (s : State) (i : Nat) (g : Port → Port) : State := s.setPort i (g (s.port i))

/-- What the state holds as a job record (R304). -/
def State.job (s : State) (i : Nat) : Halves Job := SMap.get (halves0 {}) s.jobs i
/-- Replace it. -/
def State.setJob (s : State) (i : Nat) (v : Halves Job) : State := { s with jobs := SMap.set (halves0 {}) s.jobs i v }
/-- Change it. -/
def State.modJob (s : State) (i : Nat) (g : (Halves Job) → (Halves Job)) : State := s.setJob i (g (s.job i))

/-- What the state holds as the plain part of a job record (R304). -/
def State.jobFlags (s : State) (i : Nat) : JobPlain := SMap.get {} s.jobPlain i
/-- Replace it. -/
def State.setJobFlags (s : State) (i : Nat) (v : JobPlain) : State := { s with jobPlain := SMap.set {} s.jobPlain i v }
/-- Change it. -/
def State.modJobFlags (s : State) (i : Nat) (g : JobPlain → JobPlain) : State := s.setJobFlags i (g (s.jobFlags i))

/-- What the state holds as a bucket in progress (R303). -/
def State.bucket (s : State) (i : Nat) : Bucket := SMap.get {} s.buckets i
/-- Replace it. -/
def State.setBucket (s : State) (i : Nat) (v : Bucket) : State := { s with buckets := SMap.set {} s.buckets i v }
/-- Change it. -/
def State.modBucket (s : State) (i : Nat) (g : Bucket → Bucket) : State := s.setBucket i (g (s.bucket i))

/-- What the state holds as a distribution entry (R292). -/
def State.distEntry (s : State) (i : Nat) : BitVec 16 := SMap.get 0 s.dist i
/-- Replace it. -/
def State.setDistEntry (s : State) (i : Nat) (v : BitVec 16) : State := { s with dist := SMap.set 0 s.dist i v }

/-- What the state holds as an entry of the Thyme log (R225). -/
def State.logEntry (s : State) (i : Nat) : LogEntry := SMap.get {} s.log i
/-- Replace it. -/
def State.setLogEntry (s : State) (i : Nat) (v : LogEntry) : State := { s with log := SMap.set {} s.log i v }

/-! ### Keys -/

/-- The package number of queue `q` of die `d` (R190). -/
def qnum (d : DieId) (q : QId) : Nat := d.val * 1024 + q.val
/-- The die of a queue. -/
def dieOfQ (Q : Nat) : Nat := Q / 1024
/-- The key of a thing numbered within a die. -/
def dkey (d : Nat) (per : Nat) (i : Nat) : Nat := d * per + i
/-- The key of a Vat byte (R165). -/
def vkey (d a : Nat) : Nat := d * 2 ^ 26 + a
/-- The key of a byte of host memory of a function. -/
def hkey (fn a : Nat) : Nat := fn * 2 ^ 64 + a % 2 ^ 64
/-- The key of an accumulator bank: die, half, bank (R109). -/
def bkey (d : Nat) (h : Half) (b : Nat) : Nat := (d * 2 + h.num) * 2 + b
/-- The key of an accumulator entry: bank, entry row, logical column (R109). -/
def akey (bk row col : Nat) : Nat := (bk * 1024 + row) * 512 + col
/-- The key of a cell of a half-array: die, half, contraction index, logical column (R95, R96). -/
def ckey (d : Nat) (h : Half) (r c : Nat) : Nat := ((d * 2 + h.num) * 1024 + r) * 512 + c
/-- The key of a counter block: array tiles 0 to 127, vector clusters 128 to 131, ports 132 and 133 of a die (R40). -/
def clusterKey : Cluster → Nat
  | .tile d t => dkey d.val 134 t.val
  | .vec d c => dkey d.val 134 (128 + c.val)
  | .port d p => dkey d.val 134 (132 + p.val)
/-- The die of a cluster. -/
def clusterDie : Cluster → Nat
  | .tile d _ => d.val
  | .vec d _ => d.val
  | .port d _ => d.val
/-- The package page number of an HBM address (R175, R182). -/
def pageOf (a : Nat) : Nat := a / 4096
/-- The die of an HBM address (R174). -/
def hbmDie (a : Nat) : Nat := a / 2 ^ 40
/-- The offset of an HBM address within its die (R174). -/
def hbmOff (a : Nat) : Nat := a % 2 ^ 40
/-- The data capacity of a die: 384 GiB (R174). -/
def dieBytes : Nat := 0x6000000000
/-- The stack of a page: die page p lies in stack p mod 3 (R175). -/
def stackOf (page : Nat) : Nat := (page % 2 ^ 28) % 3
/-- The dies of a package. -/
def dieIds : List Nat := [0, 1, 2, 3]

/-! ### Byte runs -/

/-- The canonical form of a memory: addresses strictly rising, no entry equal to the 0 that an unlisted one reads as. -/
def Memory.wf (m : SMap Byte) : Bool := SMap.wf 0 m

/-- `n` bytes of the Vat of a die. -/
def State.vatBytes (s : State) (d a n : Nat) : List Byte := SMap.getRun 0 s.vat (vkey d a) n
/-- Write bytes into the Vat of a die. -/
def State.setVat (s : State) (d a : Nat) (bs : List Byte) : State :=
  { s with vat := SMap.setRun 0 s.vat (vkey d a) bs }
/-- `n` bytes of HBM. -/
def State.hbmBytes (s : State) (a n : Nat) : List Byte := SMap.getRun 0 s.hbm a n
/-- Write bytes into HBM. Once PWRGD has fallen, or both references are lost, nothing is written (R58, R52). -/
def State.setHbm (s : State) (a : Nat) (bs : List Byte) : State :=
  if s.power.hbmOff then s else { s with hbm := SMap.setRun 0 s.hbm a bs }
/-- `n` bytes of host memory of a function, at addresses of 64 bits. -/
def State.hostBytes (s : State) (fn a n : Nat) : List Byte := (List.range n).map (fun i => s.hostByte (hkey fn (a + i)))
/-- Write bytes into host memory of a function. -/
def State.setHost (s : State) (fn a : Nat) (bs : List Byte) : State :=
  { s with host := SMap.setRun 0 s.host (hkey fn a) bs }

/-! ### Records in halves (R234) -/

/-- What a group sees of a record: its own pending half, otherwise the committed half. -/
def Halves.seen {α : Type} (h : Halves α) (g : Nat) : α :=
  match h.pend with
  | some p => if h.group = g then p else h.com
  | none => h.com
/-- Another group holds a pending half of the record. -/
def Halves.foreign {α : Type} (h : Halves α) (g : Nat) : Bool := h.pend.isSome && h.group != g
/-- Write the pending half for the entry `e`, by queue and SEQ. -/
def Halves.write {α : Type} (h : Halves α) (g : Nat) (e : Nat × Nat) (v : α) : Halves α :=
  { h with pend := some v, group := g, trail := (e, v) :: (if h.pend.isSome && h.group == g then h.trail else []) }
/-- Take out what entries of a queue beyond `seq` wrote: the newest of the other writes stands, or none (R199). -/
def Halves.undo {α : Type} (h : Halves α) (Q seq : Nat) : Halves α :=
  let gone := fun (x : (Nat × Nat) × α) => x.1.1 == Q && decide (seq < x.1.2)
  if h.trail.any gone then
    match h.trail.filter (fun x => !gone x) with
    | [] => halves0 h.com
    | x :: xs => { h with pend := some x.2, trail := x :: xs }
  else h
/-- Change the committed half, and with it every write of the interval. -/
def Halves.both {α : Type} (h : Halves α) (f : α → α) : Halves α :=
  { h with com := f h.com, pend := h.pend.map f, trail := h.trail.map (fun x => (x.1, f x.2)) }
/-- Move the pending half of a group to the committed half. -/
def Halves.commit {α : Type} (h : Halves α) (g : Nat) : Halves α :=
  match h.pend with
  | some p => if h.group = g then halves0 p else h
  | none => h
/-- Discard the pending half of a group. -/
def Halves.discard {α : Type} (h : Halves α) (g : Nat) : Halves α :=
  if h.pend.isSome && h.group == g then halves0 h.com else h
/-- Discard the pending half whoever wrote it (R234: a reset that keeps HBM). -/
def Halves.drop {α : Type} (h : Halves α) : Halves α := halves0 h.com

/-! ### Small shared facts -/

/-- The commit group of a queue (R203): its CGROUP, or the queue itself when CGROUP is 0. Groups of CGROUP c stand
at 4096 + c (DESIGN CHOICE, log 98). -/
def groupOf (s : State) (Q : Nat) : Nat :=
  let g := (s.queue Q).cgroup
  if g = 0 then Q else 4096 + g.toNat
/-- The key of a die's record of a group. -/
def gkey (d g : Nat) : Nat := d * 8192 + g
/-- The queues that are enabled. -/
def enabledQueues (s : State) : List Nat := (s.queues.filter (fun e => e.2.enable)).map Prod.fst
/-- The members of a group: every enabled queue of the package that carries the CGROUP (R203). -/
def members (s : State) (g : Nat) : List Nat := (enabledQueues s).filter (fun Q => groupOf s Q == g)
/-- The dies that have a member of a group. -/
def memberDies (s : State) (g : Nat) : List Nat := dieIds.filter (fun d => (members s g).any (fun Q => dieOfQ Q == d))

/-- Without repeats, the first of each kept. -/
def dedup : List Nat → List Nat
  | [] => []
  | x :: xs => x :: (dedup xs).filter (fun y => y != x)

/-- The groups of queues. -/
def State.groupsOf (s : State) (Qs : List Nat) : List Nat := dedup (Qs.map (groupOf s))

/-- The next free value and the state that has drawn it (log 1). -/
def State.draw (s : State) : Word × State := (Config.freeWord s.free, { s with free := s.free + 1 })
/-- A key slot with fresh keys. -/
def KeySlot.fresh (epoch : BitVec 2) (k : BitVec 768) : KeySlot :=
  { epoch := epoch, xts := k.truncate 512, mac := (k >>> 512).truncate 256 }
/-- Fresh random keys and the state that has drawn them (R335, R346). -/
def State.drawKeys (s : State) : BitVec 768 × State := (Config.randomKey s.free, { s with free := s.free + 1 })

/-- BAR0 serves a register other than a PWR_ register or the two time registers only from READY on; before, a write has
no effect (R61) (DEDUCED, log 80). -/
def State.whenReady (s t : State) : State := if s.power.ready then t else s

end Sys2Proof.Machine
end

