-- ==== Sys2Proof/Machine/Structure.lean ====
section
/-! DEFINITION. What the records of an image say (R73 to R79), and what the records applied to a die make of its
queues, curds, sources and ports. -/

namespace Sys2Proof.Machine

/-! ### Record fields -/

/-- What a queue binding record gives its queues (R75). -/
structure Binding where
  region : Nat
  group : Nat
  stream : Nat
  tenant : Nat
  priority : Nat
  deriving DecidableEq, Repr

/-- What a curd ownership record gives its curds (R74). -/
structure CurdOwner where
  kind : Nat
  group : Nat
  write : Bool
  tenant : Nat
  deriving DecidableEq, Repr

/-- Where an interrupt routing record sends its sources (R76). -/
structure Route where
  troroik : Bool
  fn : Nat
  vector : Nat
  prio : Nat
  deriving DecidableEq, Repr

/-- A coordinate record (R77). -/
structure Coord where
  x : Nat
  y : Nat
  z : Nat
  dimX : Nat
  dimY : Nat
  dimZ : Nat
  side : Bool
  timeRoot : Bool
  deriving DecidableEq, Repr

def bindingOfRec (w : Word) : Binding :=
  { region := fld w 41 40, group := fld w 39 32, stream := fld w 31 30, tenant := fld w 29 23,
    priority := fld w 18 16 }

def ownerOfRec (w : Word) : CurdOwner :=
  { kind := fld w 41 40, group := fld w 39 32, write := bitAt w 31, tenant := fld w 30 24 }

def routeOfRec (w : Word) : Route :=
  { troroik := bitAt w 35, fn := fld w 34 28, vector := fld w 27 20, prio := fld w 19 16 }

def coordOfRec (w : Word) : Coord :=
  { x := fld w 63 59, y := fld w 58 54, z := fld w 53 49, dimX := fld w 48 44, dimY := fld w 43 39,
    dimZ := fld w 38 34, side := bitAt w 33, timeRoot := bitAt w 32 }

/-- A curd or queue record covers item `i` of die `d`; `extra` is 1 where COUNT is the number minus 1 (R75). -/
def runCovers (extra : Nat) (d i : Nat) (w : Word) : Bool :=
  fld w 63 62 == d && decide (fld w 61 52 ≤ i) && decide (i < fld w 61 52 + fld w 51 42 + extra)

/-- A routing record covers source `src` of die `d` (R76). -/
def routeCovers (d src : Nat) (w : Word) : Bool :=
  fld w 63 62 == d && decide (fld w 61 48 ≤ src) && decide (src < fld w 61 48 + fld w 47 36)

/-! ### Lookups in an image -/

/-- The region pairing record of a die. -/
def Image.pairRec (im : Image) (d : Nat) : Word := (im.pairing.find? (fun w => fld w 5 4 == d)).getD 0
def Image.curd (im : Image) (d c : Nat) : Option CurdOwner := (im.curds.find? (runCovers 0 d c)).map ownerOfRec
def Image.queue (im : Image) (d q : Nat) : Option Binding := (im.queues.find? (runCovers 1 d q)).map bindingOfRec
/-- The route of a source. Where two routing records cover it the first one counts (DESIGN CHOICE, log 21). -/
def Image.route (im : Image) (d src : Nat) : Option Route := (im.routes.find? (routeCovers d src)).map routeOfRec
def Image.portRec (im : Image) (p : Nat) : Word := (im.ports.find? (fun w => fld w 63 61 == p)).getD 0

/-! ### What is applied -/

/-- MODE of a die (R73): 0 split, 1 ganged, 2 gradient pair; split while no records are applied. -/
def State.mode (s : State) (d : Nat) : Nat :=
  match (s.die d).image with
  | some im => fld (im.pairRec d) 3 2
  | none => 0

/-- The records that a fenced region keeps where others have been applied to its die since (R91). -/
def Die.kept (x : Die) : Half → Option (Option Image)
  | .west => x.keptWest
  | .east => x.keptEast

/-- The half a curd lies in (R74). -/
def halfOfCurd (c : Nat) : Half := if c < 320 then .west else .east

/-- The records applied to a region: those of its die, or those that it keeps (R91; what of them is a region's own:
DEDUCED, log 117). -/
def State.imageOfRegion (s : State) (d : Nat) (h : Half) : Option Image := ((s.die d).kept h).getD (s.die d).image

/-- A region is on under the applied records; off while none are applied (R73, R83, R85). -/
def State.regionOn (s : State) (d : Nat) (h : Half) : Bool :=
  match s.imageOfRegion d h with
  | some im => bitAt (im.pairRec d) h.num
  | none => false

/-- The owner of a curd (R74, R168). -/
def State.curdOwner (s : State) (d c : Nat) : Option CurdOwner :=
  match s.imageOfRegion d (halfOfCurd c) with
  | some im => im.curd d c
  | none => none

/-- The tenant a curd carries for the zeroing of a switch (R171): that of its record, 0 when unowned. -/
def Image.curdTenant (im : Option Image) (d c : Nat) : Nat :=
  match im with
  | some i => match i.curd d c with
    | some o => o.tenant
    | none => 0
  | none => 0

/-- A tenant can be served: the physical function, or a VF whose tenant exists (R346). -/
def State.tenantReady (s : State) (t : Nat) : Bool :=
  t == 0 || (SMap.get {} s.sec.tenants t).state != .absent

/-- The record that binds a queue (R75, R91): where a region keeps its records, those alone bind queues to that region. -/
def Die.bindRec (x : Die) (d q : Nat) : Option Binding :=
  let own := fun h => ((x.kept h).bind (fun im => im.bind (fun i => i.queue d q))).filter (fun b => b.region == h.num)
  let open' := fun (b : Binding) => !((x.keptWest.isSome && b.region == 0) || (x.keptEast.isSome && b.region == 1))
  ((own .west).or (own .east)).or ((x.image.bind (fun i => i.queue d q)).filter open')

/-- The binding the applied records give a queue: none for a tenant that is absent (R346). -/
def State.binding (s : State) (Q : Nat) : Option Binding :=
  match (s.die (dieOfQ Q)).bindRec (dieOfQ Q) (Q % 1024) with
  | some b => if s.tenantReady b.tenant then some b else none
  | none => none

/-- A queue is bound: the applied records bind it to its OWNER (R190). -/
def State.bound (s : State) (Q : Nat) : Bool :=
  match s.binding Q with
  | some b => b.tenant == (s.queue Q).owner
  | none => false

/-- The route of a source of a die (R76). -/
def State.route (s : State) (d src : Nat) : Option Route :=
  match (s.die d).image with
  | some im => im.route d src
  | none => none

/-- ROLE of a port (R77): off while no records are applied (R83, R85). -/
def State.role (s : State) (p : Nat) : Nat :=
  match (s.die (p / 2)).image with
  | some im => fld (im.portRec p) 60 57
  | none => 0

/-- PASS of a port (R77). -/
def State.pass (s : State) (p : Nat) : Bool :=
  match (s.die (p / 2)).image with
  | some im => bitAt (im.portRec p) 56
  | none => false

def portIds : List Nat := [0, 1, 2, 3, 4, 5, 6, 7]

/-- The port that has a role, of 1 to 9. -/
def State.portOfRole (s : State) (r : Nat) : Option Nat := portIds.find? (fun p => s.role p == r)

/-- The lowest unfenced die (R32): its Troroik is primary. Die 0 when every die is fenced. -/
def State.primary (s : State) : Nat := (dieIds.find? (fun d => !(s.die d).fenced)).getD 0

/-- The image whose records stand for the package: those of the primary die. -/
def State.pkgImage (s : State) : Option Image := (s.die s.primary).image

/-- The applied coordinate record (R77). -/
def State.coord (s : State) : Coord := coordOfRec ((s.pkgImage.map Image.coord).getD 0)

/-- ROOT: the applied coordinate record sets TIME_ROOT (R37). -/
def State.root (s : State) : Bool := s.coord.timeRoot

/-- An image that is resident: both resident images carry one security policy (check 19 of R82). -/
def State.resident (s : State) : Option Image := s.img.serve.image.or s.img.learn.image

/-- The security policy in force is that of the resident images (R340, R342; DEDUCED, log 34): no bit is set while both
slots are empty. -/
def State.policy (s : State) : Word := (s.resident.map Image.policy).getD 0
def State.vfEnable (s : State) : Word := (s.resident.map Image.vfEnable).getD 0
def State.ideRequired (s : State) : Bool := bitAt s.policy 7
def State.linkTagRequired (s : State) : Bool := bitAt s.policy 6
def State.encryptAll (s : State) : Bool := bitAt s.policy 5
def State.weightsSealed (s : State) : Bool := bitAt s.policy 4
def State.userIoSealed (s : State) : Bool := bitAt s.policy 3
def State.pfDebugRead (s : State) : Bool := bitAt s.policy 2

/-- The format enables record applied to a die (R78). -/
def State.formats (s : State) (d : Nat) : Word := ((s.die d).image.map Image.formats).getD 0

/-- A region of a die, by half. -/
def Die.regionFenced (x : Die) : Half → Bool
  | .west => x.fencedWest
  | .east => x.fencedEast

/-- A region that is fenced, or whose die is. -/
def State.fencedAt (s : State) (d : Nat) (h : Half) : Bool := (s.die d).fenced || (s.die d).regionFenced h

/-- W of a half-array (R2). -/
def Die.width (x : Die) : Half → Nat
  | .west => x.wWest
  | .east => x.wEast
def Die.cols (x : Die) : Half → BitVec 512
  | .west => x.colsWest
  | .east => x.colsEast
def Die.stat (x : Die) : Half → Option Stationary
  | .west => x.statWest
  | .east => x.statEast
def Die.setStat (x : Die) (h : Half) (v : Option Stationary) : Die :=
  match h with
  | .west => { x with statWest := v }
  | .east => { x with statEast := v }

end Sys2Proof.Machine
end

