-- ==== Sys2Proof/Machine/Flags.lean ====
section
/-! DEFINITION. Event sources, their flags and counters (R214 to R217), records to the Thyme log (R226, R228), and the
counters of registers. A flag that a register bit names stands only in its source. -/

namespace Sys2Proof.Machine

/-! ### Source numbers (R214, R258, R311, R333, R355) -/

def srcComplete (Q : Nat) : Nat := Q % 1024
def srcHalt (Q : Nat) : Nat := 0x0400 + Q % 1024
def srcOverrun (Q : Nat) : Nat := 0x0800 + Q % 1024
def srcJob (j : Nat) : Nat := 0x0C00 + j
/-- The array flags INT_SAT, NAN_OUT, INF_OUT of a half, as 0, 1, 2. -/
def srcArray (h : Half) (i : Nat) : Nat := 0x1C00 + 3 * h.num + i
def srcVecNan : Nat := 0x1C06
/-- The conversion flags INT_SAT, SAT, OVF, NONFINITE, CLAMP, as 0 to 4. -/
def srcConv (i : Nat) : Nat := 0x1C07 + i
def srcUpdSkip : Nat := 0x1C0C
def srcViolation : Nat := 0x1C0D
def srcViolationMulti : Nat := 0x1C0E
def srcVatCe : Nat := 0x1C0F
def srcVatUe : Nat := 0x1C10
/-- The flags CE, UE, POISON of a stack, as 0, 1, 2. -/
def srcStack (st i : Nat) : Nat := 0x1C11 + 3 * st + i
def srcRegionFence (h : Half) : Nat := 0x1C1A + h.num
def srcPrefixFree : Nat := 0x1C40
def srcPortDown (p : Nat) : Nat := 0x1C41 + p % 2
def srcPortExhausted (p : Nat) : Nat := 0x1C43 + p % 2
def srcPortMiswired (p : Nat) : Nat := 0x1C45 + p % 2
def srcTenantDrop : Nat := 0x1C47
def srcMismatch : Nat := 0x1C48
def srcSealed : Nat := 0x1C49
def srcReceiptFailed : Nat := 0x1C4A
/-- The reset causes in the bit order of PWR_RESET_CAUSE: 0 POWER_ON, 1 PERST, 2 HOT_RESET, 3 PF_FLR, 4 PKG_SOFT,
5 THERMTRIP, 6 SUPPLY_MON, 7 DIE, 8 WATCHDOG. -/
def srcCause (i : Nat) : Nat := 0x1D00 + i
def srcCapUnmet : Nat := 0x1D09
def srcThermalHigh : Nat := 0x1D0A
def srcAvsFault : Nat := 0x1D0B
def srcDroop : Nat := 0x1D0C
def srcSkew : Nat := 0x1D0D
def srcImgDone : Nat := 0x1D0E
/-- The discard flag of a slot: KIND 1 Serve, 2 Learn. -/
def srcDiscarded (kind : Nat) : Nat := 0x1D0E + kind
def srcTurnDone : Nat := 0x1D11
def srcTurnFailed : Nat := 0x1D12
def srcTurnAbsent : Nat := 0x1D13
def srcDegraded : Nat := 0x1D14
def srcDieFence (d : Nat) : Nat := 0x1D15 + d
def srcGenFreed : Nat := 0x1D20
def srcNotIndependent : Nat := 0x1D21
def srcKeyBusy : Nat := 0x1D22
def srcTenantRemoved : Nat := 0x1D23
def srcFwDone : Nat := 0x1D24
def srcKeyDone : Nat := 0x1D25
def srcSweepEnded : Nat := 0x1D26
def srcIdeLost : Nat := 0x1D27
def srcNest : Nat := 0x1E00
def srcLogWritten : Nat := 0x1E01
def srcLogDrop : Nat := 0x1E02

/-- A source is one of the package (R214). -/
def isPkgSrc (src : Nat) : Bool := decide (0x1D00 ≤ src) && decide (src ≤ 0x1DFF)

/-- The sources that R214 and the later chapters assign. -/
def srcAssigned (src : Nat) : Bool :=
  decide (src ≤ 0x1C1B) || (decide (0x1C40 ≤ src) && decide (src ≤ 0x1C4A))
  || (decide (0x1D00 ≤ src) && decide (src ≤ 0x1D18)) || (decide (0x1D20 ≤ src) && decide (src ≤ 0x1D27))
  || (decide (0x1E00 ≤ src) && decide (src ≤ 0x1E02))

/-- The key of a source as die `d` raises it: package sources stand under 4 whatever the die (R217). -/
def srcKey (d src : Nat) : Nat := if isPkgSrc src then 4 * 16384 + src else d * 16384 + src

/-- The die in whose source space a key is seen: package sources are seen at the primary die (R214, R217). -/
def State.srcHome (s : State) (k : Nat) : Nat := if k / 16384 = 4 then s.primary else k / 16384

/-- The route of a source key under the records of its die. -/
def State.routeOfKey (s : State) (k : Nat) : Option Route := s.route (s.srcHome k) (k % 16384)

/-! ### Raising and clearing -/

/-- A source after one event (R215, R218): flag set, counter advanced up to saturation, PENDING set if it awaits delivery. -/
def Source.event (x : Source) (waits : Bool) : Source :=
  { flag := true, count := satAdd x.count 1, pend := x.pend || waits }

/-- An event of a source waits for delivery: it is routed, or its die is in a structure switch, at whose end the new
records decide (R218, R223) (DEDUCED, log 90). -/
def State.awaits (s : State) (k : Nat) : Bool := (s.routeOfKey k).isSome || (s.die (s.srcHome k)).switchHold

/-- One event on a source (R215). -/
def State.raise (s : State) (d src : Nat) : State :=
  s.modSrc (srcKey d src) (fun x => x.event (s.awaits (srcKey d src)))

/-- One event on a source when a condition holds. -/
def State.raiseIf (s : State) (b : Bool) (d src : Nat) : State := if b then s.raise d src else s

/-- The flag of a source. -/
def State.flagOf (s : State) (d src : Nat) : Bool := (s.src (srcKey d src)).flag

/-- Clear the flag of a source; the counter and PENDING stay (R215). -/
def State.clearFlag (s : State) (d src : Nat) : State := s.modSrc (srcKey d src) (fun x => { x with flag := false })

/-- Clear the counter of a source (R215). -/
def State.clearCount (s : State) (d src : Nat) : State := s.modSrc (srcKey d src) (fun x => { x with count := 0 })

/-- Clear the flags of a register whose written bits are given: pairs of bit and source. -/
def State.w1c (s : State) (d : Nat) (v : Word) (bits : List (Nat × Nat)) : State :=
  bits.foldl (fun s b => if bitAt v b.1 then s.clearFlag d b.2 else s) s

/-! ### The Thyme log's input queue -/

/-- Post a record to the log of a die (R228): one that finds 256 records waiting is dropped and counted. -/
def State.post (s : State) (d event : Nat) (code : Code) (detail : Nat) (src : Nat) : State :=
  let r : LogRec := { time := s.time.now, event := BitVec.ofNat 16 event, code := code,
                      detail := BitVec.ofNat 64 detail, source := BitVec.ofNat 14 src }
  if (s.die d).logQueue.length < 256 then s.modDie d (fun x => { x with logQueue := x.logQueue ++ [r] })
  else (s.modDie d (fun x => { x with logDrops := ctrAdd x.logDrops 1 })).raise d srcLogDrop

/-- Post a record of the package: its producer is the primary die (DEDUCED, log 22). -/
def State.postPkg (s : State) (event : Nat) (code : Code) (detail : Nat) (src : Nat) : State :=
  s.post s.primary event code detail src

/-! ### Fields of dies -/

/-- Die fields set on every die. -/
def State.allDies (s : State) (g : Die → Die) : State := dieIds.foldl (fun s d => s.modDie d g) s

/-! ### Counter blocks (R40) -/

/-- The counters of a block, by what it knows of its handshakes: `hs` of them where the spec states how many, EVENT the `skipped`
ones under EVENT_SEL 1. How far the times advance the spec does not state, nor the waits of EVENT_SEL 2, nor HS under a descriptor
(free values, log 1). A frozen block does not count. -/
def State.countWith (s : State) (k : Nat) (hs : Option Nat) (skipped : Nat) : State :=
  let b := s.block k
  if b.freeze then s
  else
    let f := fun i => Config.freeWord (s.free + i)
    let b := { b with
      hs := (hs.map (ctrAdd b.hs)).getD (b.hs + f 0)
      busyNs := b.busyNs + f 1
      waitInNs := b.waitInNs + f 2
      waitOutNs := b.waitOutNs + f 3
      event := if b.eventSel = 1 then ctrAdd b.event skipped else if b.eventSel = 2 then b.event + f 4 else b.event }
    { (s.setBlock k b) with free := s.free + 5 }

/-- A descriptor uses a cluster. -/
def State.countBlock (s : State) (k skipped : Nat) : State := s.countWith k none skipped
/-- One handshake of a link port. -/
def State.countHandshake (s : State) (k : Nat) : State := s.countWith k (some 1) 0

/-- Count in several blocks, each with what it skipped. -/
def State.countBlocks (s : State) (ks : List (Nat × Nat)) : State := ks.foldl (fun s k => s.countBlock k.1 k.2) s

end Sys2Proof.Machine
end

