-- ==== Sys2Proof/Machine/Halves.lean ====
section
/-! DEFINITION. Records in committed and pending halves, all together (R234, R266, R304): commit, discard and drop; and
the pins that records hold on one another (R247, R250, R252). -/

namespace Sys2Proof.Machine

/-- Records of a die: the slots each array keeps per die. -/
def streamPer : Nat := 2048
def ctxPer : Nat := 8192
def pfxPer : Nat := 1024
def jobPer : Nat := 4096

/-- Change every record of every kind; adapters are package records. `learning` says whether the learning record is
among them. -/
def State.mapHalves (s : State) (learning : Bool) (d : Nat → Bool) (adapters : Nat → Bool)
    (g : {α : Type} → Halves α → Halves α) : State :=
  let s := { s with
    streams := SMap.mapAll (halves0 {}) (fun k h => if d (k / streamPer) then g h else h) s.streams
    ctxs := SMap.mapAll (halves0 {}) (fun k h => if d (k / ctxPer) then g h else h) s.ctxs
    pfxs := SMap.mapAll (halves0 {}) (fun k h => if d (k / pfxPer) then g h else h) s.pfxs
    jobs := SMap.mapAll (halves0 {}) (fun k h => if d (k / jobPer) then g h else h) s.jobs
    adapters := SMap.mapAll (halves0 {}) (fun _ h => if adapters h.group then g h else h) s.adapters }
  if learning then
    dieIds.foldl (fun s i => if d i then s.modDie i (fun x => { x with learn := g x.learn }) else s) s
  else s

/-- A commit of a group that takes effect moves its pending halves to the committed halves (R234, R266): the learning
record only at a KIND 2 commit. -/
def State.commitHalves (s : State) (g : Nat) (learning : Bool) : State :=
  s.mapHalves learning (fun _ => true) (fun _ => true) (fun h => h.commit g)

/-- Discard the pending halves of a group on the dies that satisfy `d`. -/
def State.discardHalves (s : State) (d : Nat → Bool) (g : Nat) : State :=
  s.mapHalves true d (fun _ => true) (fun h => h.discard g)

/-- A die's learning record is pending under a group (R266, R273). -/
def State.learnPending (s : State) (g : Nat) : Bool :=
  dieIds.any (fun d => let h := (s.die d).learn; h.pend.isSome && h.group == g)

/-! ### Pins (R247, R250, R252) -/

/-- REFS of prefix `i` of a die: the context records, in either half, that name it, and the prefix records that are not
free and name it as their parent. -/
def State.pfxRefs (s : State) (d i : Nat) : Nat :=
  let named := fun (c : Ctx) => c.pfx == some i
  let child := fun (p : Pfx) => p.state != 0 && p.parent == some i
  (s.ctxs.filter (fun e => e.1 / ctxPer == d && (named e.2.com || (e.2.pend.map named).getD false))).length
  + (s.pfxs.filter (fun e => e.1 / pfxPer == d && (child e.2.com || (e.2.pend.map child).getD false))).length

/-- REFS of a generation of an adapter slot: the context records of the package, in either half, that pin it. -/
def State.genRefs (s : State) (slot num : Nat) : Nat :=
  let pins := fun (c : Ctx) => c.adapter == some (slot, num)
  (s.ctxs.filter (fun e => pins e.2.com || (e.2.pend.map pins).getD false)).length

/-- Free the retiring prefixes whose REFS is 0, one after another: a freed one lets its parent's REFS fall. -/
def State.settlePfxs (s : State) : Nat → State
  | 0 => s
  | n + 1 =>
    match s.pfxs.find? (fun e => e.2.com.state == 2 && s.pfxRefs (e.1 / pfxPer) (e.1 % pfxPer) == 0) with
    | some e => ((s.setPfx e.1 (halves0 {})).raise (e.1 / pfxPer) srcPrefixFree).settlePfxs n
    | none => s

/-- An adapter slot whose OLD generation is freed: without a CUR it reads as a new slot. -/
def Adapter.freeOld (a : Adapter) : Adapter :=
  if a.cur.isNone then { a with old := none, tenant := none, retiring := false } else { a with old := none }

/-- Free the OLD generations whose REFS is 0. -/
def State.settleGens (s : State) : State :=
  (SMap.keys s.adapters).foldl (fun s i =>
    let h := s.adapter i
    match h.com.old with
    | some g =>
      if s.genRefs i g.num = 0 then (s.setAdapter i { h with com := h.com.freeOld }).raise 0 srcGenFreed else s
    | none => s) s

/-- What the pins that are left let go of. -/
def State.settleRefs (s : State) : State := (s.settlePfxs s.pfxs.length).settleGens

/-- The pending effects of a queue's entries beyond `seq` are discarded, the newest write of any other entry standing: none
of them passes a commit point (R199, R201). Where another entry wrote a record later, what it made of the former value
stays (DESIGN CHOICE, log 105). -/
def State.undoBeyond (s : State) (Q seq : Nat) : State :=
  (s.mapHalves true (fun _ => true) (fun _ => true) (fun h => h.undo Q seq)).settleRefs

end Sys2Proof.Machine
end

