-- ==== Sys2Proof/Machine/Seal.lean ====
section
/-! DEFINITION. Tenants' keys (R183), the MAC of a page (R180, R182), and storing bytes in pages of HBM. -/

namespace Sys2Proof.Machine

/-- A tenant's record. -/
def State.tenant (s : State) (t : Nat) : Tenant := SMap.get {} s.sec.tenants t
def State.setTenant (s : State) (t : Nat) (v : Tenant) : State :=
  { s with sec := { s.sec with tenants := SMap.set {} s.sec.tenants t v } }
def State.modTenant (s : State) (t : Nat) (g : Tenant → Tenant) : State := s.setTenant t (g (s.tenant t))

/-- The key slot of a tenant that holds an epoch (R183). -/
def Tenant.keyFor (x : Tenant) (e : BitVec 2) : Option KeySlot :=
  match x.slot0 with
  | some k => if k.epoch = e then some k else match x.slot1 with
    | some j => if j.epoch = e then some j else none
    | none => none
  | none => match x.slot1 with
    | some j => if j.epoch = e then some j else none
    | none => none
def Tenant.hasKey (x : Tenant) (e : BitVec 2) : Bool := (x.keyFor e).isSome

/-! ### Pages of a byte range -/

/-- The pieces of `n` bytes at an address, page by page: address and length. -/
def pieces (a : Nat) : Nat → Nat → List (Nat × Nat)
  | 0, _ => []
  | fuel + 1, n =>
    if n = 0 then []
    else
      let k := min n (4096 - a % 4096)
      (a, k) :: pieces (a + k) fuel (n - k)

/-- The pieces of a byte run. -/
def pagePieces (a n : Nat) : List (Nat × Nat) := pieces a (n / 4096 + 2) n

/-- The pages of a byte range. -/
def rangePages (a n : Nat) : List Nat := (pagePieces a n).map (fun x => pageOf x.1)

/-! ### The MAC of a page (R180, R182) -/

/-- The header of a tag as its word (R180). -/
def PageTag.header (g : PageTag) : Nat :=
  g.owner % 128 * 2 ^ 25 + g.epoch.toNat * 2 ^ 23 + g.cls.toNat * 2 ^ 21 + bnum g.enc * 2 ^ 20 + bnum g.poison * 2 ^ 19
    + bnum g.assigned * 2 ^ 18

/-- What a stack stores of an encrypted page of which the state holds the plain bytes (R182, log 65). -/
def cipherPage (k : KeySlot) (p : Nat) (bs : List Byte) : List Byte := xtsEncrypt k.xts p bs

/-- The MAC of a page under a key slot (R182). -/
def macOf (k : KeySlot) (g : PageTag) (p : Nat) (bs : List Byte) : BitVec 96 :=
  BitVec.ofNat 96 (ofLe ((cmac256 k.mac (leBytes 4 g.header ++ leBytes 8 p ++ leBytes 4 0 ++ cipherPage k p bs)).take 12))

/-- The bytes of a page. -/
def State.pageBytes (s : State) (p : Nat) : List Byte := s.hbmBytes (p * 4096) 4096

/-- The MAC that a page has under the key of its epoch; zero for a page that is not encrypted (R182). -/
def State.macNow (s : State) (p : Nat) : BitVec 96 :=
  let g := s.tag p
  if g.enc then
    match (s.tenant g.owner).keyFor g.epoch with
    | some k => macOf k g p (s.pageBytes p)
    | none => 0
  else 0

/-- The MAC of a page matches, or is not checked (R182). -/
def State.macFits (s : State) (p : Nat) : Bool := !(s.tag p).enc || (s.tag p).mac == s.macNow p

/-- Give a page that has been written its MAC, under the newest epoch of its owner (R182, R183). -/
def State.seal (s : State) (p : Nat) : State :=
  let g := s.tag p
  let own := s.tenant g.owner
  let s := s.setTag p { g with epoch := if g.assigned && own.hasKey own.newest then own.newest else g.epoch }
  s.setTag p { s.tag p with mac := s.macNow p }

/-- Store bytes in pages and give these their MAC. -/
def State.storeHbm (s : State) (a : Nat) (bs : List Byte) : State := (rangePages a bs.length).foldl State.seal (s.setHbm a bs)

end Sys2Proof.Machine
end

