-- ==== Sys2Proof/Machine/QueueOps.lean ====
section
/-! DEFINITION. The shared operations of queues: the completion area (R198), halts (R199), the advance of DONE,
queue-reset and disable (R201), and the ledger's cursors (R204). -/

namespace Sys2Proof.Machine

/-- Write bytes at an offset from a queue's area: host memory of OWNER's function, or HBM (R191, R211)
(DEDUCED, log 56). -/
def State.writeArea (s : State) (owner : Nat) (base : Word) (off : Nat) (bs : List Byte) : State :=
  let a := (fld base 63 6) * 64 + off
  if bitAt base 0 then s.storeHbm a bs else s.setHost owner a bs

/-- Read bytes at an offset from a queue's area. -/
def State.readArea (s : State) (owner : Nat) (base : Word) (off n : Nat) : List Byte :=
  let a := (fld base 63 6) * 64 + off
  if bitAt base 0 then s.hbmBytes a n else s.hostBytes owner a n

/-- QUE_HALT as R211 shows it. -/
def Queue.haltWord (q : Queue) : Word := packWord [(q.haltCode.toNat, 48), (q.haltSeq % 2 ^ 48, 0)]

/-- The 64 bytes of the cursor block (R198). -/
def Queue.cursorBlock (q : Queue) : List Byte :=
  leBytes 8 (q.accepted % 2 ^ 48) ++ leBytes 8 (q.done % 2 ^ 48) ++ leBytes 8 (q.committed % 2 ^ 48)
    ++ leBytes 8 q.haltWord.toNat ++ leBytes 32 0

/-- Rewrite a queue's cursor block (R198). -/
def State.writeCursors (s : State) (Q : Nat) : State :=
  let q := s.queue Q
  s.writeArea q.owner q.cplBase 0 q.cursorBlock

/-- The 16 bytes of a completion record (R198). -/
def cplRecord (seq : Nat) (code : Code) (time : Word) : List Byte :=
  leBytes 8 (code.toNat * 2 ^ 48 + seq % 2 ^ 48) ++ leBytes 8 time.toNat

/-- Write the completion record of an entry (R198). -/
def State.writeRecord (s : State) (Q seq : Nat) (code : Code) : State :=
  let q := s.queue Q
  s.writeArea q.owner q.cplBase (0x40 + 16 * (seq % 2 ^ q.log2)) (cplRecord seq code s.time.now)

/-- IRQ of a descriptor (R193). -/
def Desc.irq (x : Desc) : Bool := bitAt x.w08 3

/-- The entry of a sequence number on the device. -/
def Queue.entry (q : Queue) (seq : Nat) : Option Entry := q.entries.find? (fun e => e.seq == seq)

/-- An entry has been started: by its engine, ended, or with its record written. -/
def EntryStat.isStarted : EntryStat → Bool
  | .fetched => false
  | _ => true

/-- An entry is running or ended and has no completion record yet. -/
def EntryStat.inFlight : EntryStat → Bool
  | .started => true
  | .ended _ => true
  | _ => false

/-- Set the status of an entry. -/
def Queue.setStat (q : Queue) (seq : Nat) (st : EntryStat) : Queue :=
  { q with entries := q.entries.map (fun e => if e.seq = seq then { e with stat := st } else e) }

/-- The front entries whose completion is due leave the device and DONE advances over them (R198). -/
def retire (done : Nat) : List Entry → Nat × List Entry
  | [] => (done, [])
  | e :: es => match e.stat with
    | .closed _ => if e.seq = done + 1 then retire (done + 1) es else (done, e :: es)
    | _ => (done, e :: es)

def Queue.retireFront (q : Queue) : Queue :=
  { q with done := (retire q.done q.entries).1, entries := (retire q.done q.entries).2 }

/-- A queue that halts or is disabled in a drain ends its drain there: it fetches nothing more in it (R89). -/
def Queue.endsDrain (q : Queue) : Queue := { q with drain := if q.drain = .off then .off else .here }

/-- Halt a queue at a sequence number (R199): HALT_SEQ and HALT_CODE, later entries stopped or dropped and their pending
effects with them, the cursor block, the halt event, Thyme log event 0x000C. -/
def State.haltAt (s : State) (Q seq : Nat) (code : Code) : State :=
  let s := (s.undoBeyond Q seq).modQueue Q (fun q => Queue.retireFront
    { q.endsDrain with halted := true, haltCode := code, haltSeq := seq, entries := q.entries.filter (fun e => e.seq ≤ seq) })
  let s := s.writeCursors Q
  (s.raise (dieOfQ Q) (srcHalt Q)).post (dieOfQ Q) 0x000C code (Q * 2 ^ 48 + seq % 2 ^ 48) (srcHalt Q)

/-- Complete one entry of a queue with a status (R198, R199). A status other than OK halts the queue
(DEDUCED, log 83). -/
def State.closeEntry (s : State) (Q : Nat) (e : Entry) (code : Code) : State :=
  let s := s.writeRecord Q e.seq code
  let s := s.raiseIf e.desc.irq (dieOfQ Q) (srcComplete Q)
  let s := s.modQueue Q (fun q => q.setStat e.seq (.closed code))
  if code = Status.ok then (s.modQueue Q Queue.retireFront).writeCursors Q
  else s.haltAt Q e.seq code

/-- Complete in order every front entry that has ended OK and whose completion was held back (R198). -/
def State.closeReady (s : State) (Q : Nat) : Nat → State
  | 0 => s
  | n + 1 =>
    match (s.queue Q).entries with
    | e :: _ => match e.stat with
      | .ended c => if e.seq = (s.queue Q).done + 1 then (s.closeEntry Q e c).closeReady Q n else s
      | _ => s
    | [] => s

/-! ### Queue-reset (R201) -/

/-- The keys of the group record of a queue. -/
def State.groupKey (s : State) (Q : Nat) : Nat := gkey (dieOfQ Q) (groupOf s Q)

/-- CURRENT of the sixteen bank entries (R188). -/
def State.currentBits (s : State) : Nat := (List.range 16).foldl (fun a i => a + bnum (s.pbank i).current * 2 ^ i) 0

/-- A commit of the queue has been prepared and has not been settled (R201, R204). -/
def State.preparedFor (s : State) (Q : Nat) : Bool := (s.group (s.groupKey Q)).prep.isSome

/-- The committed cursor the ledger holds for a queue: the slot whose tag is the group's committed number (R204). -/
def Queue.ledgerCursor (q : Queue) (num : Nat) : Nat :=
  if q.tag0 = some num then q.cur0 else if q.tag1 = some num then q.cur1 else 0

/-- Discard what a queue has on the device beyond COMMITTED, and its halt. -/
def Queue.discardWork (q : Queue) : Queue :=
  { q with entries := [], done := q.committed, halted := false, haltCode := 0, haltSeq := 0, tail := 0, ackWaiting := false }

/-- QUEUE_RESET once no prepared commit is left (R201). -/
def Queue.resetQ (q : Queue) : Queue :=
  { q.discardWork with accepted := q.committed, ledAcc := q.committed, resetWaiting := false }

/-- ENABLE = 0 (R201): a queue-reset, then all three cursors 0 (DEDUCED, log 73). -/
def Queue.disableQ (q : Queue) (num : Nat) : Queue :=
  { q.resetQ.endsDrain with
    enable := false, disableWaiting := false, accepted := 0, done := 0, committed := 0, ledAcc := 0
    cur0 := 0, tag0 := some num, cur1 := 0, tag1 := none, solo := false, heldByPartner := false }

/-! ### Shown state -/

/-- STATE of QUE_STATUS (R211): 0 disabled, 4 held by partner, 3 unbound, 2 halted, 1 running. -/
def State.queueState (s : State) (Q : Nat) : Nat :=
  let q := s.queue Q
  if !q.enable then 0 else if q.heldByPartner then 4 else if !s.bound Q then 3 else if q.halted then 2 else 1

end Sys2Proof.Machine
end

