-- ==== Sys2Proof/Machine/Operands.lean ====
section
/-! DEFINITION. Operands of descriptors: the header (R193), formats and conversion words (R78, R128), Vat spans and
their checks (R113, R169, R170, R167), random draws (R264, R265), and element storage (R124). -/

namespace Sys2Proof.Machine

/-! ### The header (R193) -/

def Desc.seq (x : Desc) : Nat := fld x.w00 63 16
def Desc.cls (x : Desc) : Nat := fld x.w00 15 12
def Desc.job (x : Desc) : Nat := fld x.w00 11 0
def Desc.waitQueue (x : Desc) : Nat := fld x.w08 63 52
def Desc.waitSeq (x : Desc) : Nat := fld x.w08 51 4
def Desc.fence (x : Desc) : Bool := bitAt x.w08 2
def Desc.waitOn (x : Desc) : Bool := bitAt x.w08 1

/-- A descriptor from its 64 bytes (R20). -/
def descOfBytes (bs : List Byte) : Desc :=
  let w := fun i => BitVec.ofNat 64 (ofLe ((bs.drop (8 * i)).take 8))
  ⟨w 0, w 1, w 2, w 3, w 4, w 5, w 6, w 7⟩

/-- The header breaks R193: a reserved bit, a class of 11 or more, a JOB or a wait field that must be 0. -/
def Desc.badHeader (x : Desc) : Bool :=
  bitAt x.w08 0 || decide (11 ≤ x.cls) || (x.cls != 7 && x.job != 0)
  || (!x.waitOn && (x.waitQueue != 0 || x.waitSeq != 0))

/-- The operation code of a descriptor as its class places it, and how many codes the class has (R202, R118, R155,
R177, R158, R253, R305, R315, R269, R347). -/
def Desc.op (x : Desc) : Nat :=
  match x.cls with
  | 1 => fld x.w10 63 61
  | 2 => fld x.w10 63 62
  | 3 => fld x.w10 63 61
  | 4 => fld x.w10 63 62
  | 5 => fld x.w10 63 62
  | 6 => fld x.w10 63 60
  | 7 => fld x.w10 63 61
  | 8 => fld x.w10 63 61
  | 9 => fld x.w10 63 60
  | 10 => fld x.w10 63 60
  | _ => 0

/-! ### The tenant and group an entry works for -/

/-- OWNER of the queue of an entry. -/
def State.ownerOf (s : State) (Q : Nat) : Nat := (s.queue Q).owner
/-- The binding of a queue; the unbound default never starts an entry. -/
def State.bind (s : State) (Q : Nat) : Binding :=
  (s.binding Q).getD { region := 0, group := 0, stream := 0, tenant := 0, priority := 0 }

/-! ### Formats (R78, R128) -/

def State.fmtOn (s : State) (d fmt : Nat) : Bool := bitAt (s.formats d) (10 - fmt)
def State.blkOn (s : State) (d blk : Nat) : Bool := blk == 0 || bitAt (s.formats d) (19 + blk)
def State.nf2On (s : State) (d : Nat) : Bool := bitAt (s.formats d) 16
def State.ringOn (s : State) (d : Nat) : Bool := bitAt (s.formats d) 17

/-- Formats that NF2 emulation admits (R140). -/
def nf2Fmt (fmt : Nat) : Bool := fmt == 0 || fmt == 1 || fmt == 2 || fmt == 3 || fmt == 4 || fmt == 8

/-- A conversion word breaks check 1 of R128. -/
def Conv.bad1 (c : Conv) (streamOn : Bool) : Bool :=
  c.rsv || (c.rule == 3) || (c.rnd == 3) || decide (4 < c.blk) || decide (9 < c.fmt)
  || (c.rule != 2 && c.fixed != 0) || c.fixed == 0xFF || (c.blk == 0 && c.rule != 0)
  || (!canScale c.fmt && c.blk != 0)
  || (c.rnd == 2 && !streamOn)
  || (c.nf2 && (!nf2Fmt c.fmt || !(c.blk == 0 || c.blk == 2) || c.rnd != 0 || !c.sat
        || c.rule != (if c.blk = 2 then 1 else 0)))

/-- A conversion word breaks check 2 of R128 under the records of an image. -/
def convOff (formats : Word) (c : Conv) : Bool :=
  !bitAt formats (10 - c.fmt) || !(c.blk == 0 || bitAt formats (19 + c.blk)) || (c.nf2 && !bitAt formats 16)

/-! ### Vat spans -/

/-- Rows of bytes that a descriptor reads or writes in the Vat of its die. -/
structure Span where
  base : Nat
  rowBytes : Nat
  stride : Nat
  rows : Nat
  write : Bool
  deriving DecidableEq, Repr

/-- The byte after the last one (R169: gaps between rows included). -/
def Span.stop (x : Span) : Nat := x.base + (x.rows - 1) * x.stride + x.rowBytes
/-- Two spans share a byte, gaps included (R148). -/
def Span.overlaps (x y : Span) : Bool := decide (x.base < y.stop) && decide (y.base < x.stop)
/-- The span lies in the 640 curds (R165). -/
def Span.inVat (x : Span) : Bool := decide (x.stop ≤ 640 * 65536)
/-- The span covers a curd. -/
def Span.covers (x : Span) (c : Nat) : Bool := decide (x.base / 65536 ≤ c) && decide (c ≤ (x.stop - 1) / 65536)
/-- The span's rows touch a byte of the 8-byte word at `a`. -/
def Span.touches (x : Span) (a : Nat) : Bool :=
  (List.range 8).any (fun i =>
    let b := a + i
    decide (x.base ≤ b) && decide (b < x.stop) &&
      (if x.stride = 0 then true else decide ((b - x.base) % x.stride < x.rowBytes)))

def allCurds : List Nat := List.range 640

/-- The queue's group owns a curd (R168). -/
def State.groupOwns (s : State) (d group c : Nat) : Option CurdOwner :=
  match s.curdOwner d c with
  | some o => if o.kind = 1 ∧ o.group = group then some o else none
  | none => none

/-- No curds. -/
def noCurds : Nat → Bool := fun _ => false

/-- What a span meets at a curd (R169): the owner of the named kind, by `own`; `wide` are the curds that may be read
besides (R342). -/
def curdCode (own : Nat → Option CurdOwner) (wide : Nat → Bool) (xs : List Span) (c : Nat) : Option Code :=
  let ys := xs.filter (fun x => x.covers c)
  if ys.any (fun x => (own c).isNone && !(wide c && !x.write)) then some Status.curdNotOwned
  else if ys.any (fun x => x.write && !((own c).map CurdOwner.write).getD false) then some Status.curdReadOnly
  else none

/-- The ownership check of R169: the lowest failing curd decides. -/
def vatCheck (own : Nat → Option CurdOwner) (wide : Nat → Bool) (xs : List Span) : Option (Code × Nat) :=
  allCurds.findSome? (fun c => (curdCode own wide xs c).map (fun k => (k, c)))

/-- A span reaches into a fenced region of the die. -/
def State.spanFenced (s : State) (d : Nat) (xs : List Span) : Bool :=
  xs.any (fun x => (s.fencedAt d .west && decide (x.base < 320 * 65536))
    || (s.fencedAt d .east && decide (320 * 65536 < x.stop)))

/-- Record a curd violation (R170). -/
def State.violation (s : State) (d Q : Nat) (code : Code) (curd : Nat) : State :=
  let s := if s.flagOf d srcViolation then s.raise d srcViolationMulti
    else (s.modDie d (fun x => { x with
        violCode := code
        violCurd := BitVec.ofNat 10 curd
        violQueue := BitVec.ofNat 10 Q })).raise d srcViolation
  let s := s.modDie d (fun x => { x with violCount := ctrAdd x.violCount 1 })
  s.post d 0x0008 code (curd * 2 ^ 16 + Q % 1024) srcViolation

/-! ### Vat words and their code (R167) -/

/-- The words with an error that rows of a descriptor touch: word index within the package, by key. -/
def State.vatErrors (s : State) (d : Nat) (xs : List Span) (c : Cond) : List Nat :=
  (s.vatCond.filter (fun e => e.2 == c && e.1 / 2 ^ 23 == d
    && xs.any (fun x => x.touches (e.1 % 2 ^ 23 * 8)))).map Prod.fst

/-- Correct the single-bit errors that a read meets: CE, the count, CE_ADDR, the word written back. -/
def State.correctVat (s : State) (d : Nat) (xs : List Span) : State :=
  (s.vatErrors d (xs.filter (fun x => !x.write)) .correctable).foldl (fun s k =>
    ((s.setVatCondAt k .sound).modDie d (fun x => { x with
        vatCeCount := ctrAdd x.vatCeCount 1
        vatCeAddr := BitVec.ofNat 26 (k % 2 ^ 23 * 8) })).raise d srcVatCe) s

/-- The halves whose words give a double-bit error to a read. -/
def State.vatUe (s : State) (d : Nat) (xs : List Span) : List Half :=
  let ks := s.vatErrors d (xs.filter (fun x => !x.write)) .uncorrectable
  ((if ks.any (fun k => decide (k % 2 ^ 23 * 8 < 320 * 65536)) then [Half.west] else [])
    ++ (if ks.any (fun k => decide (320 * 65536 ≤ k % 2 ^ 23 * 8)) then [Half.east] else []))

/-- Write bytes into the Vat: a word written whole is sound again. -/
def State.storeVat (s : State) (d a : Nat) (bs : List Byte) : State :=
  let lo := (a + 7) / 8
  let hi := (a + bs.length) / 8
  let s := s.setVat d a bs
  { s with vatCond := SMap.eraseIf (fun k => decide (d * 2 ^ 23 + lo ≤ k) && decide (k < d * 2 ^ 23 + hi)) s.vatCond }

/-- Zero a whole curd (R166). -/
def State.zeroCurd (s : State) (d c : Nat) : State :=
  { s with
    vat := SMap.eraseIf (fun k => decide (vkey d (c * 65536) ≤ k) && decide (k < vkey d ((c + 1) * 65536))) s.vat
    vatCond := SMap.eraseIf (fun k => decide (d * 2 ^ 23 + c * 8192 ≤ k) && decide (k < d * 2 ^ 23 + (c + 1) * 8192))
      s.vatCond }

/-! ### Elements in storage (R113, R124) -/

/-- Bytes that `n` elements of a format occupy from a byte boundary. -/
def elemBytes (fmt n : Nat) : Nat := (n * fmtBits fmt + 7) / 8
/-- Bytes from one stored row to the next. -/
def strideBytes (fmt stride : Nat) : Nat := stride * 16 * fmtBits fmt
/-- Scale bytes from one stored row to the next. -/
def scaleStride (stride blk : Nat) : Nat := if blk = 0 then 0 else stride * 128 / blkSize blk

/-- An operand in the Vat or in HBM: element and scale addresses, format, block code, stride and phase (R113). -/
structure Tensor where
  addr : Nat
  scale : Nat
  fmt : Nat
  blk : Nat
  stride : Nat
  phase : Nat
  deriving DecidableEq, Repr

/-- The spans of `rows` stored rows of `n` elements: elements, and scales if the operand has blocks. -/
def Tensor.spans (t : Tensor) (rows n : Nat) (write : Bool) : List Span :=
  { base := t.addr, rowBytes := elemBytes t.fmt n, stride := strideBytes t.fmt t.stride, rows := rows, write := write }
  :: (if t.blk = 0 then [] else
    [{ base := t.scale, rowBytes := (t.phase + n - 1) / blkSize t.blk + 1, stride := scaleStride t.stride t.blk,
       rows := rows, write := write }])

/-- A shape breaks R113: PHASE, the stride, or a scale address without blocks. The first element of a row lies PHASE elements
into its block: that is a byte boundary, for the 6-bit formats a multiple of 4 elements (DEDUCED, log 126). -/
def Tensor.bad (t : Tensor) (n : Nat) : Bool :=
  decide (9 < t.fmt) || decide (4 < t.blk) || (isInt t.fmt && t.blk != 0) || t.stride == 0
  || decide (t.stride * 128 < t.phase + n)
  || (if t.blk = 0 then t.phase != 0 || t.scale != 0
      else decide (blkSize t.blk ≤ t.phase) || t.phase * fmtBits t.fmt % 8 != 0)

/-- The element `j` of a row that begins at a byte: its encoding, from a byte reader. -/
def elemAt (rd : Nat → Byte) (fmt row j : Nat) : Nat :=
  let b := fmtBits fmt
  let bit := j * b
  let k := row + bit / 8
  let w := (rd k).toNat + 256 * (rd (k + 1)).toNat + 65536 * (rd (k + 2)).toNat + 16777216 * (rd (k + 3)).toNat
  (w >>> (bit % 8)) % 2 ^ b

/-- Element (i, j) of a stored tensor: its encoding and its scale code (127 when it has no block). -/
def Tensor.elem (t : Tensor) (rd : Nat → Byte) (i j : Nat) : Nat × Nat :=
  (elemAt rd t.fmt (t.addr + i * strideBytes t.fmt t.stride) j,
   if t.blk = 0 then 127
   else (rd (t.scale + i * scaleStride t.stride t.blk + (t.phase + j) / blkSize t.blk)).toNat)

/-- Its exact value (R105). -/
def Tensor.val (t : Tensor) (rd : Nat → Byte) (i j : Nat) : Val :=
  let e := t.elem rd i j
  if isInt t.fmt then decodeElem t.fmt e.1 else scaled (decodeElem t.fmt e.1) e.2

/-- Pack element encodings into bytes (R124): the first element in the lowest bits. A last byte that is only partly
filled has its upper bits zero (DEDUCED, log 52). -/
def packElems (fmt : Nat) (es : List Nat) : List Byte :=
  let b := fmtBits fmt
  leBytes (elemBytes fmt es.length) (es.foldr (fun e acc => e % 2 ^ b + 2 ^ b * acc) 0)

/-- A byte reader over the Vat of a die. -/
def State.vatRd (s : State) (d : Nat) : Nat → Byte := fun a => s.vatByte (vkey d a)

/-! ### Random draws (R264, R265) -/

/-- The counter block of draw `i` of a slot. -/
def Stream.counter (x : Stream) (i : Nat) : BitVec 128 :=
  BitVec.ofNat 128 (x.step.toNat * 2 ^ 96 + x.microbatch.toNat * 2 ^ 80 + x.layer.toNat * 2 ^ 64
    + x.purpose.toNat * 2 ^ 48 + i % 2 ^ 48)

/-- Draw `i` of a slot. -/
def Stream.draw (x : Stream) (i : Nat) : Nat := (aes128 x.key (x.counter i)).toNat % 2 ^ 64

/-- The slot of a die as a commit group sees it (R266). -/
def State.streamSeen (s : State) (d g slot : Nat) : Stream := (s.stream (dkey d 2048 slot)).seen g

/-- A stream slot fails R264 for a queue. -/
def State.streamBad (s : State) (Q : Nat) (on : Bool) (x : Stream) : Bool := on && (!x.keyed || x.tenant != s.ownerOf Q)

/-! ### What a descriptor copied when it was granted (R151, R264, R349) -/

/-- CHAIN of a vector descriptor (R155). -/
def Desc.chainSlot (x : Desc) : Nat := fld x.w10 61 56
/-- STREAM of a vector or an update descriptor (R155, R158). -/
def Desc.streamSlot (x : Desc) : Nat := if x.cls = 2 then fld x.w38 11 1 else fld x.w30 27 17

/-- The entry of a queue that a descriptor stands in. -/
def State.entryOf (s : State) (Q : Nat) (x : Desc) : Option Entry := (s.queue Q).entry x.seq

/-- The chain a granted descriptor works with: its copy. -/
def State.chainFor (s : State) (Q : Nat) (x : Desc) : Chain :=
  ((s.entryOf Q x).bind Entry.chain).getD (s.chain (dkey (dieOfQ Q) 64 x.chainSlot))

/-- The stream slot a granted descriptor works with: its copy. -/
def State.streamFor (s : State) (Q : Nat) (x : Desc) : Stream :=
  ((s.entryOf Q x).bind Entry.stream).getD (s.streamSeen (dieOfQ Q) (groupOf s Q) x.streamSlot)

/-- The transport key that a granted IMPORT or EXPORT works with: its copy, and none where there was none to copy. -/
def State.transportFor (s : State) (Q seq : Nat) : Option (BitVec 256) := ((s.queue Q).entry seq).bind Entry.transport

/-! ### Conversion counts (R136, R137) -/

/-- Add what one descriptor's conversions counted: the five counters, and each flag once (R215). -/
def State.countConv (s : State) (d : Nat) (c : ConvCount) : State :=
  let s := s.modDie d (fun x => { x with
    satCount := ctrAdd x.satCount c.sat, ovfCount := ctrAdd x.ovfCount c.ovf,
    nonfiniteCount := ctrAdd x.nonfiniteCount c.nonfinite, clampCount := ctrAdd x.clampCount c.clamp,
    intSatCount := ctrAdd x.intSatCount c.intSat })
  ((((s.raiseIf (c.intSat != 0) d (srcConv 0)).raiseIf (c.sat != 0) d (srcConv 1)).raiseIf (c.ovf != 0) d
    (srcConv 2)).raiseIf (c.nonfinite != 0) d (srcConv 3)).raiseIf (c.clamp != 0) d (srcConv 4)

/-! ### Where a descriptor is in flight -/

def westOf (a : Nat) : Bool := decide (a < 320 * 65536)

/-- The halves in which a started descriptor is in flight (R30): an array descriptor in the halves it uses, a vector
descriptor in its lane set, a memory descriptor where its Vat operands lie, an update in none, any other in the
regions its queue is bound to (DEDUCED, log 25). -/
def State.inRegion (s : State) (Q : Nat) (x : Desc) (h : Half) : Bool :=
  let bound := let r := (s.bind Q).region; r == 2 || r == h.num
  match x.cls with
  | 1 => x.op != 0 || bnum (bitAt x.w10 60) == h.num
  | 2 => if x.op = 2 then bound else let l := fld x.w10 55 54; l == 2 || l == h.num
  | 3 =>
    let at' := fun (space : Nat) (a : Word) => space == 1 && (westOf (a.toNat % 2 ^ 26) == (h == .west))
    at' (fld x.w10 60 59) x.w20 || at' (fld x.w10 58 57) x.w28
  | 4 => false
  | _ => bound

end Sys2Proof.Machine
end

