-- ==== Sys2Proof/Machine/Pages.lean ====
section
/-! DEFINITION. HBM pages: the check of a page when a descriptor reaches it (R179, R180, R183, R185), their
code (R185), reads and writes page by page (R176), and sealed pages (R343). -/

namespace Sys2Proof.Machine

/-- A stack of a die, by number. -/
def Die.stack (x : Die) : Nat → Stack
  | 0 => x.stack0
  | 1 => x.stack1
  | _ => x.stack2
def Die.setStack (x : Die) (st : Nat) (v : Stack) : Die :=
  match st with
  | 0 => { x with stack0 := v }
  | 1 => { x with stack1 := v }
  | _ => { x with stack2 := v }
def Die.modStack (x : Die) (st : Nat) (g : Stack → Stack) : Die := x.setStack st (g (x.stack st))

/-- The die and the die page number of a package page. -/
def pageDie (p : Nat) : Nat := p / 2 ^ 28
def diePage (p : Nat) : Nat := p % 2 ^ 28

/-! ### The code of a page (R185) -/

/-- The codewords of a page in a condition; a page has 128 of them, two to a line. -/
def State.badWords (s : State) (p : Nat) (c : Cond) : List Nat :=
  (s.hbmCond.filter (fun e => e.2 == c && e.1 / 128 == p)).map Prod.fst

/-- Every codeword of a page has been written anew. -/
def State.soundPage (s : State) (p : Nat) : State := { s with hbmCond := SMap.eraseIf (fun k => k / 128 == p) s.hbmCond }

/-- Count uncorrectable lines, or an access to a poisoned page, of the stack of a page (R179, R189). -/
def State.countUe (s : State) (p n : Nat) : State :=
  s.modDie (pageDie p) (fun x => x.modStack (stackOf p) (fun k => { k with ueCount := ctrAdd k.ueCount n }))

/-- LAST_PAGE of the stack of a page. -/
def State.lastPage (s : State) (p : Nat) : State :=
  s.modDie (pageDie p) (fun x => x.modStack (stackOf p) (fun k => { k with lastPage := BitVec.ofNat 27 (diePage p) }))

/-- What every access that reads a page finds of its code (R185): a poisoned page fails; uncorrectable lines poison it, with
UE and POISON; codewords with one bad byte are corrected and the page rewritten, with CE. Whether the access fails. -/
def State.readCode (s : State) (p : Nat) : State × Bool :=
  let d := pageDie p
  let st := stackOf p
  let lines := dedup ((s.badWords p .uncorrectable).map (fun k => k / 2))
  let fixed := s.badWords p .correctable
  if (s.tag p).poison then (s.countUe p 1, true)
  else if !lines.isEmpty then
    let s := ((s.modTag p (fun g => { g with poison := true })).countUe p lines.length).lastPage p
    ((s.raise d (srcStack st 1)).raise d (srcStack st 2), true)
  else if !fixed.isEmpty then
    let s := ((s.soundPage p).modDie d (fun x => x.modStack st (fun k => { k with
      ceCount := ctrAdd k.ceCount fixed.length }))).lastPage p
    (s.raise d (srcStack st 0), false)
  else (s, false)

/-! ### Reaching a page (R179) -/

/-- How a page is reached: read, written in part (read and merged: R176), or written whole. -/
inductive PageUse where
  | read
  | part
  | full
  deriving DecidableEq, Repr

/-- Reach a page for a tenant, or for any owner under PF_DEBUG_READ (R179, R342): owner, keys (that of the page's EPOCH, and for
a write the newest, R183), code, MAC (the order of the last two: DEDUCED, log 136). A write moves the page to the newest epoch;
one of the whole page reads nothing of it (R176), so that neither its code nor its MAC is checked (DEDUCED, log 26). -/
def State.reachPage (s : State) (t : Nat) (anyOwner : Bool) (u : PageUse) (p : Nat) : State × Option Code :=
  let g := s.tag p
  let d := pageDie p
  let own := s.tenant g.owner
  if !g.assigned || (g.owner != t && !anyOwner) then (s, some Status.pageNotOwned)
  else if !own.hasKey g.epoch || (u ≠ .read && !own.hasKey own.newest) then
    (s.modDie d (fun x => { x with keyMissing := ctrAdd x.keyMissing 1 }), some Status.pageKeyMissing)
  else
    match u with
    | .full => ((s.soundPage p).setTag p { g with epoch := own.newest, poison := false }, none)
    | _ =>
      let r := s.readCode p
      if r.2 then (r.1, some Status.memUncorrectable)
      else if !s.macFits p then
        (r.1.modDie d (fun x => { x with integFail := ctrAdd x.integFail 1 }), some Status.pageIntegrityFail)
      else if u = .part then ((r.1.soundPage p).setTag p { g with epoch := own.newest }, none)
      else (r.1, none)

/-- Reach pages in order until one fails. -/
def State.reachAll (s : State) (t : Nat) (anyOwner : Bool) (u : PageUse) : List Nat → State × Option Code
  | [] => (s, none)
  | p :: ps =>
    let r := s.reachPage t anyOwner u p
    match r.2 with
    | some c => (r.1, some c)
    | none => r.1.reachAll t anyOwner u ps

/-- Read bytes of HBM for a tenant: the state after the page checks, and the bytes or the failure. -/
def State.readHbm (s : State) (t : Nat) (anyOwner : Bool) (a n : Nat) : State × Except Code (List Byte) :=
  let r := s.reachAll t anyOwner .read ((pagePieces a n).map (fun x => pageOf x.1))
  match r.2 with
  | some c => (r.1, .error c)
  | none => (r.1, .ok (r.1.hbmBytes a n))

/-! ### Writes, and the moves that sealed pages refuse (R343) -/

/-- A page is sealed (R342, R343). -/
def State.sealedPage (s : State) (p : Nat) : Bool :=
  let g := s.tag p
  g.assigned && ((g.cls == 1 && s.weightsSealed) || (g.cls == 2 && s.userIoSealed))

/-- Sealed source pages refuse a move (R343): to host memory, to curds of another tenant, to a page of another owner or
CLASS. `dstSpace`: 0 HBM, 1 the Vat, 2 host memory. -/
def State.sealRefuses (s : State) (t dstSpace : Nat) (src : List Nat) (dst : Nat) : Bool :=
  src.any (fun p => s.sealedPage p && (match dstSpace with
    | 0 => (s.tag dst).cls != (s.tag p).cls || (s.tag p).owner != t
    | 1 => (s.tag p).owner != t
    | _ => true))

/-- Write bytes into HBM for a tenant, piece by piece; a failure leaves what was written before it (R179). A page of the
tenant for which `no` holds refuses the move as it is reached (R343). -/
def State.writePieces (s : State) (t : Nat) (no : Nat → Bool) : List (Nat × Nat) → List Byte → State × Option Code
  | [], _ => (s, none)
  | (a, k) :: ps, bs =>
    let p := pageOf a
    if (s.tag p).assigned ∧ (s.tag p).owner = t ∧ no p then (s, some Status.illegalInState)
    else
      let r := s.reachPage t false (if k = 4096 then .full else .part) p
      match r.2 with
      | some c => (r.1, some c)
      | none => (r.1.storeHbm a (bs.take k)).writePieces t no ps (bs.drop k)

/-- Write bytes that come from the device. -/
def State.writeHbm (s : State) (t a : Nat) (bs : List Byte) : State × Option Code :=
  s.writePieces t (fun _ => false) (pagePieces a bs.length) bs

/-- Write bytes that are moved from pages `src`, or from host memory. -/
def State.writeMoved (s : State) (t : Nat) (fromHost : Bool) (src : List Nat) (a : Nat) (bs : List Byte) : State × Option Code :=
  s.writePieces t (fun p => (fromHost && s.sealedPage p) || s.sealRefuses t 0 src p) (pagePieces a bs.length) bs

/-- Read pages in order for a move that none of them may make sealed; a page that fails stops it (R179, R343). -/
def State.reachOpen (s : State) (t : Nat) : List Nat → State × Option Code
  | [] => (s, none)
  | p :: ps =>
    if (s.tag p).assigned ∧ (s.tag p).owner = t ∧ s.sealedPage p then (s, some Status.illegalInState)
    else
      let r := s.reachPage t false .read p
      match r.2 with
      | some c => (r.1, some c)
      | none => r.1.reachOpen t ps

/-- Zero a whole page. -/
def State.zeroPage (s : State) (p : Nat) : State :=
  if s.power.hbmOff then s
  else { s with hbm := SMap.eraseIf (fun k => decide (p * 4096 ≤ k) && decide (k < (p + 1) * 4096)) s.hbm }

/-- The byte range lies in HBM of a die (R174). -/
def hbmIn (d a n : Nat) : Bool := hbmDie a == d && decide (hbmOff a + n ≤ dieBytes)

/-- A byte reader over HBM. -/
def State.hbmRd (s : State) : Nat → Byte := fun a => s.hbmByte a

end Sys2Proof.Machine
end

