-- ==== Sys2Proof/Machine/Stores.lean ====
section
/-! DEFINITION. The sealed non-volatile stores of the Troroiks (R338), and what a command answers. -/

namespace Sys2Proof.Machine

/-- A record of the store changed: its version number rises. -/
def Stored.put {α : Type} (r : Stored α) (v : α) : Stored α := { ver := r.ver + 1, auth := true, val := v }

/-- The record of the highest version that authenticates. -/
def newest {α : Type} : List (Stored α) → Option (Stored α)
  | [] => none
  | r :: rs =>
    match newest rs with
    | none => if r.auth then some r else none
    | some x => if r.auth && decide (x.ver ≤ r.ver) then some r else some x

/-- The image-signing key slots of R337. -/
def keySlots : List Nat := List.range 8
/-- The record of an image-signing key slot. -/
def Store.imgKey (x : Store) (i : Nat) : Stored ImgKey := SMap.get { val := {} } x.imgKeys i
def Store.setImgKey (x : Store) (i : Nat) (r : Stored ImgKey) : Store :=
  { x with imgKeys := SMap.set { val := {} } x.imgKeys i r }

/-- The floor of a KIND (R84). -/
def Store.floor (x : Store) (kind : Nat) : Nat := if kind = 1 then x.genServe.val.toNat else x.genLearn.val.toNat

/-- A die's own store with the records written that differ between `was` and `now`. -/
def Store.carry (own was now : Store) : Store :=
  let pick := fun {α : Type} [DecidableEq α] (o w n : Stored α) => if w = n then o else n
  { genServe := pick own.genServe was.genServe now.genServe
    genLearn := pick own.genLearn was.genLearn now.genLearn
    fwFloor := pick own.fwFloor was.fwFloor now.fwFloor
    imgKeys := (keySlots.foldl (fun a i => a.setImgKey i (pick (own.imgKey i) (was.imgKey i) (now.imgKey i))) own).imgKeys }

/-- The dies that are not fenced. -/
def State.unfenced (s : State) : List Nat := dieIds.filter (fun d => !(s.die d).fenced)

/-- The stores after the primary Troroik has written a change into those of all unfenced dies (R338). -/
def State.writeStores (s : State) (x : Store) : SMap Store :=
  (s.unfenced.foldl (fun t d => t.setStore d ((s.storeOf d).carry s.store x)) s).stores

/-- What the four stores say at start-up step 2 (R338): each record of the highest version that authenticates; none where no
copy of some record does. -/
def State.loadStores (s : State) : Option Store :=
  let four := dieIds.map s.storeOf
  match newest (four.map Store.genServe), newest (four.map Store.genLearn), newest (four.map Store.fwFloor) with
  | some gs, some gl, some ff =>
    let ks := keySlots.filterMap (fun i => (newest (four.map (fun x => x.imgKey i))).map (fun r => (i, r)))
    if ks.length = 8 then
      some { genServe := gs, genLearn := gl, fwFloor := ff
             imgKeys := (ks.foldl (fun (a : Store) e => a.setImgKey e.1 e.2) { imgKeys := [] }).imgKeys }
    else none
  | _, _, _ => none

/-- Every store holds what step 2 loaded: those that lag are rewritten (R338). -/
def State.adoptStore (s : State) (x : Store) : State :=
  dieIds.foldl (fun s d => s.setStore d x) { s with store := x }

/-! ### Firmware (R55, R335) -/

/-- The bytes of a flash region. -/
def FlashContent.content : FlashContent → List Byte
  | .factory => Config.factoryFirmware
  | .bytes bs => bs

/-- The security version of a firmware copy that verifies (R335). What a flash is shipped with verifies, at version 0
(DESIGN CHOICE, log 116). -/
def FlashContent.svn : FlashContent → Option (BitVec 16)
  | .factory => some 0
  | .bytes bs => Config.firmwareSvn bs

/-- The firmware copy that a die's Troroik boots: A, or B where A does not verify or is below the firmware floor (R335). -/
def State.bootCopy (s : State) (d : Nat) : Option (FlashContent × Bool) :=
  let good := fun (c : FlashContent) => c.svn.any (fun v => decide (s.store.fwFloor.val ≤ v))
  let a := s.flashOf (4 * d)
  let b := s.flashOf (4 * d + 1)
  if good a then some (a, false) else if good b then some (b, true) else none

/-! ### Answers -/

/-- What every command answers: the effect of its meaning on everything but the queue of commands, and the stores. -/
def answerWith (s t : State) (x : Store) (xs : SMap Store) : Res :=
  .next { t with pending := s.pending, store := x, stores := xs }

/-- What a command answers that leaves the sealed stores as they are: only Troroik writes them (R338). -/
def answer (s t : State) : Res := answerWith s t s.store s.stores

/-- What a command answers that makes Troroik change the sealed store (R338): the change is written into the stores of all
unfenced dies; with every die fenced there is none to write. -/
def answerStore (s t : State) (x : Store) : Res :=
  if x = s.store ∨ s.unfenced = [] then answer s t else answerWith s t x (s.writeStores x)

end Sys2Proof.Machine
end

