-- ==== Sys2Proof/Machine/Image.lean ====
section
/-! DEFINITION. Grenoa images: the bytes of an image (R69 to R72), the ordered checks of a load (R82, with the record
rules R73 to R80), and the checks that start-up step 6 applies again (R83). -/

namespace Sys2Proof.Machine

/-! ### Bytes -/

/-- A number of `n` little-endian bytes at an offset. -/
def rdNat (rd : Nat → Byte) (o n : Nat) : Nat := ofLe ((List.range n).map (fun i => rd (o + i)))
/-- `n` bytes at an offset. -/
def rdBytes (rd : Nat → Byte) (o n : Nat) : List Byte := (List.range n).map (fun i => rd (o + i))
/-- `n` 64-bit records at an offset, each with its own offset. -/
def rdRecs (rd : Nat → Byte) (o n : Nat) : List (Nat × Word) :=
  (List.range n).map (fun i => (o + 8 * i, BitVec.ofNat 64 (rdNat rd (o + 8 * i) 8)))
/-- The offset of the first byte of a run that is not zero. -/
def dirty (rd : Nat → Byte) (o n : Nat) : Option Nat := (List.range n).findSome? (fun i => if rd (o + i) = 0 then none else some (o + i))
/-- The lowest of some offsets. -/
def lowest (xs : List Nat) : Option Nat := xs.foldl (fun a x => match a with
  | none => some x
  | some y => some (min x y)) none

/-! ### The section table (R71) -/

/-- Entry `i` of the section table. -/
structure Section where
  typ : Nat
  count : Nat
  offset : Nat
  length : Nat
  rsv : Nat
  deriving DecidableEq, Repr

def sectionAt (rd : Nat → Byte) (i : Nat) : Section :=
  let o := 0x80 + 16 * i
  { typ := rdNat rd o 2, count := rdNat rd (o + 2) 2, offset := rdNat rd (o + 4) 4, length := rdNat rd (o + 8) 4,
    rsv := rdNat rd (o + 12) 4 }

/-- The record counts that R71 requires of a type. -/
def countOk (typ n : Nat) : Bool :=
  match typ with
  | 1 => n == 4
  | 2 => decide (n ≤ 2560)
  | 3 => decide (n ≤ 4096)
  | 4 => decide (n ≤ 4096)
  | 5 => n == 9
  | 6 => n == 1
  | 7 => n == 2
  | 8 => n == 5
  | _ => false

/-- Entry `i` breaks R71. A body starts after the table at a multiple of 64 bytes (R69; DEDUCED, log 28). -/
def sectionBad (rd : Nat → Byte) (len i : Nat) : Bool :=
  let e := sectionAt rd i
  let before := (List.range i).map (sectionAt rd)
  !countOk e.typ e.count || before.any (fun b => b.typ == e.typ) || e.length != 8 * e.count || e.rsv != 0
  || (if e.count = 0 then e.offset != 0 || e.length != 0
      else e.offset % 64 != 0 || decide (e.offset < 0x100) || decide (len < 128 + e.offset + e.length)
        || before.any (fun b => b.count != 0 && decide (b.offset < e.offset + e.length)
              && decide (e.offset < b.offset + b.length)))

/-- The records of a type, each with its offset. -/
def sectionRecs (rd : Nat → Byte) (typ : Nat) : List (Nat × Word) :=
  match ((List.range 8).map (sectionAt rd)).find? (fun e => e.typ == typ) with
  | some e => rdRecs rd e.offset e.count
  | none => []

/-! ### Record rules (R73 to R80) -/

def pairingBad (w : Word) : Bool :=
  fld w 63 6 != 0 || fld w 3 2 == 3 || (fld w 3 2 != 0 && fld w 1 0 != 3)

def curdBad (w : Word) : Bool :=
  fld w 23 0 != 0 || fld w 51 42 == 0 || decide (640 < fld w 51 42) || decide (640 < fld w 61 52 + fld w 51 42)
  || fld w 41 40 == 0 || (fld w 41 40 != 1 && fld w 39 32 != 0) || decide (64 < fld w 30 24)

def queueBad (w : Word) : Bool :=
  decide (1023 < fld w 61 52 + fld w 51 42) || fld w 41 40 == 3 || decide (64 < fld w 29 23) || fld w 22 19 != 0
  || fld w 15 0 != 0

def routeBad (w : Word) : Bool :=
  fld w 47 36 == 0 || decide (64 < fld w 34 28) || (bitAt w 35 && fld w 34 20 != 0)
  || (fld w 34 28 != 0 && decide (32 ≤ fld w 27 20)) || fld w 15 0 != 0

def coordBad (w : Word) : Bool :=
  let c := coordOfRec w
  decide (c.dimX < c.x) || decide (c.dimY < c.y) || decide (c.dimZ < c.z) || decide (23 < c.dimZ) || fld w 31 0 != 0

def portBad (w : Word) : Bool := decide (9 < fld w 60 57) || fld w 55 0 != 0

def formatsBad (w : Word) : Bool :=
  fld w 63 24 != 0 || fld w 19 18 != 0 || fld w 15 11 != 0 || !bitAt w 10
  || (fld w 7 1 != 0 && (!bitAt w 0 || fld w 23 20 == 0))

def policyBad (w : Word) : Bool :=
  fld w 63 8 != 0 || fld w 1 0 != 0 || (bitAt w 2 && (bitAt w 4 || bitAt w 3))

def bypassBad (w : Word) : Bool :=
  decide (512 < fld w 60 51) || decide (512 < fld w 50 41) || decide (1024 < fld w 40 30) || decide (8 < fld w 29 26)
  || decide (8 < fld w 25 22) || fld w 21 0 != 0

/-- Offsets of the records that break a rule. -/
def badRecs (bad : Word → Bool) (rs : List (Nat × Word)) : List Nat := (rs.filter (fun r => bad r.2)).map Prod.fst

/-- Offsets of the records that clash with an earlier record of the list. -/
def clashes (clash : Word → Word → Bool) : List Word → List (Nat × Word) → List Nat
  | _, [] => []
  | seen, r :: rs =>
    (if seen.any (fun w => clash w r.2) then [r.1] else []) ++ clashes clash (r.2 :: seen) rs

/-- Two runs of one die share an item; `extra` as for `runCovers`. -/
def runClash (extra : Nat) (a b : Word) : Bool :=
  fld a 63 62 == fld b 63 62 && decide (fld a 61 52 < fld b 61 52 + fld b 51 42 + extra)
    && decide (fld b 61 52 < fld a 61 52 + fld a 51 42 + extra)

/-- Two port records name one port, or one role of 1 to 9. -/
def portClash (a b : Word) : Bool :=
  fld a 63 61 == fld b 63 61 || (fld a 60 57 == fld b 60 57 && fld a 60 57 != 0)

/-- VF `t` is enabled by a VF enable word; tenant 0 always is (R75, R79). -/
def vfOn (vf : Word) (t : Nat) : Bool := t == 0 || bitAt vf (t - 1)

/-- A queue record breaks the tenant rule of R75. -/
def bindClash (vf : Word) (curds : List (Nat × Word)) (w : Word) : Bool :=
  !vfOn vf (fld w 29 23)
  || curds.any (fun r => fld r.2 63 62 == fld w 63 62 && fld r.2 41 40 == 1 && fld r.2 39 32 == fld w 39 32
      && fld r.2 30 24 != fld w 29 23)

/-! ### The bypass comparison (R80) -/

/-- What the device reports for a die: widths, lanes, port widths (R27). -/
def State.reported (s : State) (d : Nat) : List Nat :=
  let x := s.die d
  [x.wWest, x.wEast, x.lanes0.toNat + x.lanes1.toNat + x.lanes2.toNat + x.lanes3.toNat,
   (s.port (2 * d)).lanes.toNat, (s.port (2 * d + 1)).lanes.toNat]

/-- The counts a die record of the bypass section asks for. -/
def bypassWants (w : Word) : List Nat := [fld w 60 51, fld w 50 41, fld w 40 30, fld w 29 26, fld w 25 22]

/-- A die record fails the comparison. -/
def State.bypassFails (s : State) (w : Word) : Bool :=
  let have' := s.reported (fld w 63 62)
  if bitAt w 61 then have' != bypassWants w
  else (have'.zip (bypassWants w)).any (fun p => decide (p.1 < p.2))

/-- Check 14: the offset of the serial word, or of the lowest die record that fails. -/
def State.bypassCheck (s : State) (recs : List (Nat × Word)) : Option Nat :=
  match recs with
  | [] => none
  | (o, serial) :: dies =>
    if dies.any (fun r => bitAt r.2 61) && serial != Config.serial then some o
    else lowest (badRecs s.bypassFails dies)

/-! ### The signature (R72, R337) -/

/-- The image signing key of a slot. -/
def State.imgKey (s : State) (i : Nat) : ImgKey := (s.store.imgKey i).val
/-- Slot `i` holds an enrolled key. -/
def State.keyEnrolled (s : State) (i : Nat) : Bool := (s.imgKey i).state == 1
/-- The signature block of an image is well formed and verifies. -/
def State.signatureOk (s : State) (rd : Nat → Byte) (len key : Nat) : Bool :=
  let o := len - 128
  rdNat rd o 2 == 1 && (dirty rd (o + 2) 14).isNone && (dirty rd (o + 112) 16).isNone
  && Config.ecdsaVerify (s.imgKey key).key (Config.sha384 (rdBytes rd 0 o)) (rdBytes rd (o + 16) 96)

/-! ### The checks of a load (R82) -/

/-- The slot of a KIND. -/
def Img.slot (x : Img) (kind : Nat) : Slot := if kind = 1 then x.serve else x.learn
def Img.setSlot (x : Img) (kind : Nat) (v : Slot) : Img := if kind = 1 then { x with serve := v } else { x with learn := v }

/-- The image that a byte string that passed the checks describes. -/
def parseImage (rd : Nat → Byte) (len : Nat) : Image :=
  let ws := fun t => (sectionRecs rd t).map Prod.snd
  { kind := BitVec.ofNat 2 (rd 8).toNat
    keyIndex := rd 9
    generation := BitVec.ofNat 32 (rdNat rd 0x10 4)
    imageId := BitVec.ofNat 64 (rdNat rd 0x18 8)
    length := len
    bytes := SMap.setRun 0 [] 0 (rdBytes rd 0 len)
    pairing := ws 1
    curds := ws 2
    queues := ws 3
    routes := ws 4
    coord := (ws 5).headD 0
    ports := (ws 5).drop 1
    formats := (ws 6).headD 0
    policy := (ws 7).headD 0
    vfEnable := ((ws 7).drop 1).headD 0
    serial := (ws 8).headD 0
    bypass := (ws 8).drop 1 }

/-- Header checks 3 to 6: code and offset of the first that fails. -/
def headerCheck (rd : Nat → Byte) : Option (Code × Nat) :=
  if rdNat rd 0 4 ≠ 0x414E5247 then some (Status.imgBadMagic, 0)
  else if rdNat rd 4 2 ≠ 3 then some (Status.imgVersion, 4)
  else if rdNat rd 0x14 2 ≠ 0x0F03 then some (Status.imgPartMismatch, 0x14)
  else if (rd 0x16).toNat ≠ 0 ∧ (rd 0x16).toNat ≠ (if Config.binA then 1 else 2) then
    some (Status.imgPartMismatch, 0x16)
  else if (rd 8).toNat ≠ 1 ∧ (rd 8).toNat ≠ 2 then some (Status.imgFieldRange, 8)
  else if 7 < (rd 9).toNat then some (Status.imgFieldRange, 9)
  else if rdNat rd 0xA 2 ≠ 8 then some (Status.imgFieldRange, 0xA)
  else match dirty rd 0x17 1, dirty rd 0x28 88 with
    | some o, _ => some (Status.imgFieldRange, o)
    | none, some o => some (Status.imgFieldRange, o)
    | none, none => none

/-- Check 13: the lowest offset that breaks R73 to R80, repeats a die, or is a byte that R69 wants zero. -/
def recordCheck (rd : Nat → Byte) (len : Nat) : Option Nat :=
  let secs := (List.range 8).map (sectionAt rd)
  let ports := sectionRecs rd 5
  let policy := sectionRecs rd 7
  let bypass := (sectionRecs rd 8).drop 1
  let gap := (List.range (len - 128)).find? (fun o => decide (0x100 ≤ o) && rd o != 0
    && !secs.any (fun e => decide (e.offset ≤ o) && decide (o < e.offset + e.length)))
  lowest (badRecs pairingBad (sectionRecs rd 1)
    ++ clashes (fun a b => fld a 5 4 == fld b 5 4) [] (sectionRecs rd 1)
    ++ badRecs curdBad (sectionRecs rd 2) ++ badRecs queueBad (sectionRecs rd 3) ++ badRecs routeBad (sectionRecs rd 4)
    ++ badRecs coordBad (ports.take 1) ++ badRecs portBad (ports.drop 1) ++ badRecs formatsBad (sectionRecs rd 6)
    ++ badRecs policyBad (policy.take 1) ++ badRecs bypassBad bypass
    ++ clashes (fun a b => fld a 63 62 == fld b 63 62) [] bypass ++ gap.toList)

/-- Check 18: the lowest queue or routing record that breaks a tenant rule. -/
def tenantCheck (rd : Nat → Byte) : Option Nat :=
  let vf := ((sectionRecs rd 7).map Prod.snd).getD 1 0
  lowest (badRecs (bindClash vf (sectionRecs rd 2)) (sectionRecs rd 3)
    ++ badRecs (fun w => !vfOn vf (fld w 34 28)) (sectionRecs rd 4))

/-- Check 19: the first record of this image that differs from the other slot's. -/
def residentCheck (rd : Nat → Byte) (other : Option Image) : Option Nat :=
  match other with
  | none => none
  | some im =>
    let mine := (sectionRecs rd 7) ++ ((sectionRecs rd 5).take 1) ++ (sectionRecs rd 8)
    let theirs := [im.policy, im.vfEnable, im.coord, im.serial] ++ im.bypass
    lowest (((mine.zip theirs).filter (fun p => p.1.2 != p.2)).map (fun p => p.1.1))

/-- The checks of R82 in order on `len` bytes: the code and FAIL_OFFSET of the first that fails, or none. `turn`: the load was
ordered while a turn was in progress (R92). Check 7 is judged when the load ends (DESIGN CHOICE, log 120). -/
def State.imageCheck (s : State) (dmaError turn : Bool) (rd : Nat → Byte) (len : Nat) : Option (Code × Nat) :=
  let kind := (rd 8).toNat
  if dmaError then some (Status.imgDmaFail, 0)
  else if rdNat rd 0xC 4 ≠ len ∨ len % 64 ≠ 0 ∨ len < 768 ∨ 1048576 < len then some (Status.imgLength, 0)
  else match headerCheck rd with
  | some e => some e
  | none =>
  if kind = s.img.activeKind.toNat then some (Status.imgSlotActive, 8)
  else if turn then some (Status.imgBusy, 0)
  else if !s.keyEnrolled (rd 9).toNat then some (Status.imgKeyUnknown, 9)
  else if !s.signatureOk rd len (rd 9).toNat then some (Status.imgSigFail, len - 128)
  else if rdNat rd 0x10 4 < s.store.floor kind then some (Status.imgRollback, 0x10)
  else match (List.range 8).find? (sectionBad rd len) with
  | some i => some (Status.imgSectionTable, 0x80 + 16 * i)
  | none => match recordCheck rd len with
  | some o => some (Status.imgFieldRange, o)
  | none => match s.bypassCheck (sectionRecs rd 8) with
  | some o => some (Status.imgBypassMismatch, o)
  | none => match lowest (clashes (runClash 0) [] (sectionRecs rd 2)) with
  | some o => some (Status.imgCurdOverlap, o)
  | none => match lowest (clashes (runClash 1) [] (sectionRecs rd 3)) with
  | some o => some (Status.imgQueueOverlap, o)
  | none => match lowest (clashes portClash [] ((sectionRecs rd 5).drop 1)) with
  | some o => some (Status.imgPortRoleDup, o)
  | none => match tenantCheck rd with
  | some o => some (Status.imgTenantMismatch, o)
  | none => match residentCheck rd (s.img.slot (3 - kind)).image with
  | some o => some (Status.imgResidentMismatch, o)
  | none => none

/-! ### The checks of start-up step 6 (R83) -/

/-- The SHA-384 digest of an image (R83). -/
def Image.digest (im : Image) : BitVec 384 := Config.sha384 (SMap.getRun 0 im.bytes 0 im.length)

/-- The code with which step 6 discards a resident image: key slot, signature, bypass set; none to keep it. -/
def State.reverify (s : State) (im : Image) : Option Code :=
  let rd := fun o => SMap.get 0 im.bytes o
  if !s.keyEnrolled im.keyIndex.toNat then some Status.imgKeyUnknown
  else if !s.signatureOk rd im.length im.keyIndex.toNat then some Status.imgSigFail
  else if (s.bypassCheck ((0, im.serial) :: im.bypass.map (fun w => (8, w)))).isSome then some Status.imgBypassMismatch
  else none

end Sys2Proof.Machine
end

