-- ==== Sys2Proof/Machine/Engines.lean ====
section
/-! DEFINITION. The engines that a descriptor needs (R112, R144, R151, R157, R244), and what decides them for a serving-step
descriptor: its fields (R253), its batch list (R254), the KV pools (R240). -/

namespace Sys2Proof.Machine

/-! ### The descriptor (R253) -/

structure SrvDesc where
  op : Nat
  pool : Nat
  layer : Nat
  count : Nat
  budget : Nat
  slot : Nat
  hasAdapter : Bool
  hasPrefix : Bool
  addr : Nat
  len : Nat
  vat : Nat
  rowStride : Nat
  ctx : Nat
  cls : Nat
  handle : Word
  statusAddr : Nat
  statusHbm : Bool
  rsv : Bool
  deriving DecidableEq, Repr

def srvOf (d : Desc) : SrvDesc :=
  { op := fld d.w10 63 60, pool := fld d.w10 59 57, layer := fld d.w10 56 48, count := fld d.w10 47 35
    budget := fld d.w10 34 21, slot := fld d.w10 20 11, hasAdapter := bitAt d.w10 10, hasPrefix := bitAt d.w10 9
    addr := fld d.w18 63 22, len := fld d.w18 21 0, vat := fld d.w20 63 38, rowStride := fld d.w20 37 22
    ctx := fld d.w20 21 9, cls := fld d.w20 8 6, handle := d.w28, statusAddr := fld d.w30 63 6 * 64
    statusHbm := bitAt d.w30 0
    rsv := fld d.w10 8 0 != 0 || fld d.w20 5 0 != 0 || fld d.w30 5 1 != 0 || d.w38 != 0 }

/-- The batch operations. -/
def SrvDesc.batch (x : SrvDesc) : Bool := (decide (1 ≤ x.op) && decide (x.op ≤ 6)) || x.op == 11
/-- GATHER and APPEND move KV rows. -/
def SrvDesc.rows (x : SrvDesc) : Bool := x.op == 4 || x.op == 5

/-- A field that must be zero where it is not used. -/
def spare (used : Bool) (v : Nat) : Bool := !used && v != 0

/-- The fields break R253. -/
def SrvDesc.bad (x : SrvDesc) (d : Nat) : Bool :=
  let op0 := x.op == 0
  let vat := x.rows || x.op == 11
  let addr := op0 || x.op == 7 || x.op == 9 || x.batch
  x.rsv || decide (11 < x.op) || spare op0 x.pool || spare x.rows x.layer || spare x.batch x.count || spare x.rows x.budget
  || spare ((op0 && x.hasAdapter) || x.op == 9 || x.op == 10) x.slot || spare op0 (bnum x.hasAdapter + bnum x.hasPrefix)
  || spare addr x.addr || spare (op0 || x.op == 7) x.len || spare vat x.vat || spare vat x.rowStride
  || spare (op0 || x.op == 7) x.ctx || spare op0 x.cls
  || spare ((op0 && x.hasPrefix) || x.op == 7 || x.op == 8) x.handle.toNat
  || spare op0 (x.statusAddr + bnum x.statusHbm)
  || (x.batch && (x.count == 0 || decide (4096 < x.count))) || (x.rows && (x.budget == 0 || decide (8192 < x.budget)))
  || ((op0 || x.op == 7) && (x.len == 0 || decide (2097152 < x.len))) || (vat && x.rowStride == 0)
  || (addr && (x.addr % 64 != 0 || !hbmIn d x.addr 1))
  || (x.statusHbm && !(decide (x.statusAddr < 2 ^ 42) && hbmIn d x.statusAddr 32))

/-! ### Batch lists and install records (R254) -/

structure BatchEntry where
  ctx : Nat
  pos : Nat
  ntok : Nat
  vrow : Nat
  offset : Nat
  bytes : Nat
  newLen : Nat
  rsv : Bool
  deriving DecidableEq, Repr

/-- A batch entry from its two words. -/
def batchOf (op : Nat) (w0 w1 : Word) : BatchEntry :=
  { ctx := fld w0 63 51, pos := fld w0 50 30, ntok := fld w0 29 16, vrow := fld w0 13 0, offset := fld w1 63 32
    bytes := fld w1 31 0, newLen := fld w1 21 0
    rsv := fld w0 15 14 != 0 || (match op with
      | 6 => fld w1 63 22 != 0
      | 11 => false
      | _ => w1 != 0) }

/-- The words of a byte string. -/
def wordAt (bs : List Byte) (i : Nat) : Word := BitVec.ofNat 64 (ofLe ((bs.drop (8 * i)).take 8))

def batchList (op n : Nat) (bs : List Byte) : List BatchEntry :=
  (List.range n).map (fun i => batchOf op (wordAt bs (2 * i)) (wordAt bs (2 * i + 1)))

/-- The four parts of an install record: address and pages. -/
def installParts (bs : List Byte) : List (Nat × Nat) :=
  dieIds.map (fun d => (fld (wordAt bs (2 * d)) 63 22, fld (wordAt bs (2 * d + 1)) 31 0))

/-- An install record breaks R254. -/
def installBad (bs : List Byte) : Bool :=
  dieIds.any (fun d =>
    let w0 := wordAt bs (2 * d)
    let w1 := wordAt bs (2 * d + 1)
    let a := fld w0 63 22
    let n := fld w1 31 0
    fld w0 21 0 != 0 || fld w1 63 32 != 0
    || (if n = 0 then a != 0 else a % 4096 != 0 || !hbmIn d a (4096 * n)))

/-! ### KV pools (R240) -/

def Pool.segPages (p : Pool) : Nat := ceilDiv (p.tpb.toNat * p.tokenBytes.toNat) 4096

/-- BAD of a pool (DEDUCED, log 76). -/
def Pool.isBad (p : Pool) (d : Nat) : Bool :=
  p.tpb == 0 || p.layers == 0 || p.tokenBytes == 0 || p.blocks == 0 || p.tokenBytes.toNat % 64 != 0
  || !hbmIn d (4096 * p.base.toNat) (4096 * (p.blocks.toNat * (p.layers.toNat * p.segPages)))

/-- A pool is usable for a tenant. -/
def Pool.usable (p : Pool) (d t : Nat) : Bool := p.valid && !p.isBad d && p.tenant.toNat == t

/-- Pool `i` of a die. -/
def State.kvPool (s : State) (d i : Nat) : Pool := s.pool (dkey d 8 i)

/-- The HBM address of the row of a position in a layer, in block `b` (R240). -/
def Pool.rowAddr (p : Pool) (b layer pos : Nat) : Nat :=
  (p.base.toNat + b * (p.layers.toNat * p.segPages) + layer * p.segPages) * 4096
  + pos % max 1 p.tpb.toNat * p.tokenBytes.toNat

/-! ### Records as a group sees them (R234) -/

/-- Who a descriptor works for, die, tenant, group, and which entry it stands in, queue and SEQ. -/
structure Who where
  d : Nat
  t : Nat
  g : Nat
  e : Nat × Nat
  deriving DecidableEq, Repr

def State.ctxSeen (s : State) (w : Who) (i : Nat) : Ctx := (s.ctx (dkey w.d ctxPer i)).seen w.g
def State.ctxForeign (s : State) (w : Who) (i : Nat) : Bool := (s.ctx (dkey w.d ctxPer i)).foreign w.g

/-! ### The Vat rows of a batch -/

/-- The Vat rows that an entry moves. -/
def SrvDesc.span (x : SrvDesc) (tokenBytes : Nat) (e : BatchEntry) : Span :=
  let base := x.vat + e.vrow * (x.rowStride * 64)
  if x.op = 11 then { base := base, rowBytes := e.bytes, stride := 0, rows := 1, write := true }
  else { base := base, rowBytes := tokenBytes, stride := x.rowStride * 64, rows := e.ntok, write := x.op == 4 }

/-- The pool of an entry's context. -/
def State.entryPool (s : State) (w : Who) (e : BatchEntry) : Pool := s.kvPool w.d (s.ctxSeen w e.ctx).pool.toNat

/-- The Vat rows of a batch. -/
def State.batchSpans (s : State) (w : Who) (x : SrvDesc) (es : List BatchEntry) : List Span :=
  if x.rows || x.op == 11 then es.map (fun e => x.span (s.entryPool w e).tokenBytes.toNat e) else []

/-- Who the entry of a descriptor works for. -/
def State.whoOf (s : State) (Q : Nat) (y : Desc) : Who :=
  { d := dieOfQ Q, t := s.ownerOf Q, g := groupOf s Q, e := (Q, y.seq) }

/-! ### Engines (R112, R144, R151, R157, R244) -/

/-- Rows lie in a half of the Vat. -/
def Span.inHalf (x : Span) (h : Half) : Bool :=
  match h with
  | .west => decide (x.base < 320 * 65536)
  | .east => decide (320 * 65536 < x.stop)

/-- The chain-copy paths of a serving-step descriptor (R244): those of the regions whose Vat halves hold its rows, as its
batch list in HBM names them. -/
def State.copyPaths (s : State) (Q : Nat) (y : Desc) : List Nat :=
  let x := srvOf y
  let xs := if x.rows || x.op == 11 then
      s.batchSpans (s.whoOf Q y) x (batchList x.op x.count (s.hbmBytes x.addr (16 * x.count))) else []
  (if xs.any (fun z => z.inHalf .west) then [6] else []) ++ (if xs.any (fun z => z.inHalf .east) then [7] else [])

/-- The engines of its die that a descriptor needs granted: 0 and 1 the half-arrays, 2 and 3 the vector pairs, 4 the chain
loader, 5 the update units, 6 and 7 the chain-copy paths. -/
def State.engines (s : State) (Q : Nat) (x : Desc) : List Nat :=
  let at' := fun (k : Nat) => (if s.inRegion Q x .west then [k] else []) ++ (if s.inRegion Q x .east then [k + 1] else [])
  match x.cls with
  | 1 => at' 0
  | 2 => if x.op = 2 then [4] else at' 2
  | 4 => [5]
  | 6 => s.copyPaths Q x
  | _ => []

end Sys2Proof.Machine
end

