-- ==== Sys2Proof/Machine/Fence.lean ====
section
/-! DEFINITION. Fences of a region and of a die (R30, R32, R205, R207), and the commits they stop. -/

namespace Sys2Proof.Machine

/-! ### Gates that wait for descriptors, resets that wait for commits (R28, R201) -/

/-- The queues of a die that the state lists. -/
def State.queuesOf (s : State) (d : Nat) : List Nat := (SMap.keys s.queues).filter (fun Q => dieOfQ Q == d)

/-- A started descriptor uses the cluster: an array descriptor the tiles of its halves, a vector descriptor the
clusters of its lane set (R28) (DEDUCED, log 96). -/
def State.usesCluster (s : State) (Q : Nat) (x : Desc) (c : Nat) : Bool :=
  if c < 64 then x.cls == 1 && s.inRegion Q x .west
  else if c < 128 then x.cls == 1 && s.inRegion Q x .east
  else if c < 130 then x.cls == 2 && x.op != 2 && s.inRegion Q x .west
  else if c < 132 then x.cls == 2 && x.op != 2 && s.inRegion Q x .east
  else false

/-- A started descriptor of the die uses a cluster. -/
def State.clusterBusy (s : State) (d c : Nat) : Bool :=
  (s.queuesOf d).any (fun Q => (s.queue Q).entries.any (fun e => e.stat == .started && s.usesCluster Q e.desc c))

/-- A GATE that waited for a descriptor takes effect once no started descriptor uses the cluster (R28). -/
def State.settleGates (s : State) (d : Nat) : State :=
  { s with blocks := SMap.mapAll {} (fun k b =>
      if k / 134 = d && k % 134 < 132 && b.gate && !b.gated && !s.clusterBusy d (k % 134)
      then { b with gated := true } else b) s.blocks }

/-- Gates that waited act on every die. -/
def State.settleAllGates (s : State) : State := dieIds.foldl State.settleGates s

/-- A die holds a restore that a group has not committed. -/
def State.restoringOf (s : State) (g d : Nat) : Bool := (s.die d).restoring.any (fun r => r.group == g)

/-- Discard what a group has restored and not committed, on every die: its pending halves too (R326). -/
def State.dropRestore (s : State) (g : Nat) : State :=
  (s.allDies (fun x => match x.restoring with
    | some r => if r.group = g then { x with restoring := none } else x
    | none => x)).discardHalves (s.restoringOf g) g

/-- What a queue-reset discards beside the queue's entries: the pending restore of its group, and what the queue's entries
beyond COMMITTED wrote into pending halves, which is uncommitted work (DEDUCED, log 42). -/
def State.dropWork (s : State) (Q : Nat) : State := (s.dropRestore (groupOf s Q)).undoBeyond Q 0

/-- Side 1 holds a paired queue halted since a partner timeout, until TAKEOVER (R206). -/
def State.pairHalted (s : State) (Q : Nat) : Bool :=
  s.pair.halted && (s.queue Q).paired && (s.queue Q).halted && (s.queue Q).haltCode == Status.pairDegraded

/-- The queue-reset itself (R201). COMMITTED is the ledger's: a commit that has taken effect and only waits for the
partner's word counts. A queue that side 1 holds halted stays halted (R206) (DEDUCED, log 82). -/
def State.resetQueue (s : State) (Q : Nat) : State :=
  let num := (s.group (s.groupKey Q)).num
  let hold := s.pairHalted Q
  ((((s.dropWork Q).modQueue Q (fun q =>
    let r := Queue.resetQ { q with committed := q.ledgerCursor num }
    if hold then { r with halted := true, haltCode := q.haltCode, haltSeq := q.haltSeq } else r)).writeCursors Q)).settleGates
    (dieOfQ Q)

/-- HALTED of the pair is over once no enabled paired queue is halted (R331) (DEDUCED, log 63). -/
def State.settleHalted (s : State) : State :=
  if s.pair.halted && !(enabledQueues s).any (fun Q => (s.queue Q).paired && (s.queue Q).halted) then
    { s with pair := { s.pair with halted := false } }
  else s

/-- ENABLE = 0 itself (R201). -/
def State.disableQueue (s : State) (Q : Nat) : State :=
  let num := (s.group (s.groupKey Q)).num
  ((((s.dropWork Q).modQueue Q (fun q => q.disableQ num)).writeCursors Q).settleGates (dieOfQ Q)).settleHalted

/-- What waited for a prepared commit of a group to be settled. -/
def State.settleWaiting (s : State) (g : Nat) : State :=
  (members s g).foldl (fun s Q =>
    if (s.queue Q).disableWaiting then s.disableQueue Q
    else if (s.queue Q).resetWaiting then s.resetQueue Q else s) s

/-! ### Started commit entries -/

/-- The started commit entry of a queue: the engine has reached it, or it waits for the other members (R203). -/
def Queue.commitEntry (q : Queue) : Option Entry :=
  q.entries.find? (fun e => e.desc.cls == 5 && e.stat == .started)

/-- The started commit entries of a group, with their queues. -/
def State.commitEntries (s : State) (g : Nat) : List (Nat × Entry) :=
  (members s g).filterMap (fun Q => (s.queue Q).commitEntry.map (fun e => (Q, e)))

/-- A started entry of a queue is the commit entry of a commit that has taken effect: the ledger's cursor stands at it. -/
def State.inEffect (s : State) (Q : Nat) (e : Entry) : Bool :=
  e.desc.cls == 5 && e.stat == .started && (s.queue Q).ledgerCursor (s.group (s.groupKey Q)).num == e.seq

/-- The commit of the started entries has taken effect: the ledger's cursors stand at them. -/
def State.commitDone (s : State) (g : Nat) : Bool :=
  let es := s.commitEntries g
  !es.isEmpty && es.all (fun e => s.inEffect e.1 e.2)

/-- Drop the prepared commit of a group on every die (R205). -/
def State.dropPrepared (s : State) (g : Nat) : State :=
  dieIds.foldl (fun s d => s.modGroup (gkey d g) (fun r => { r with prep := none })) s

/-- Every started commit entry of a group's members completes with a status other than OK (R203, R205). -/
def State.failCommit (s : State) (g : Nat) (code : Code) : State :=
  let s := s.dropPrepared g
  (((members s g).foldl (fun s Q =>
    match (s.queue Q).commitEntry with
    | some e => s.closeEntry Q e code
    | none => s) s).settleWaiting g).settleAllGates

/-! ### Started checkpoint entries (R315, R318) -/

/-- The started checkpoint entry of a queue. -/
def Queue.ckptEntry (q : Queue) : Option Entry := q.entries.find? (fun e => e.desc.cls == 8 && e.stat == .started)

/-- The key of a snapshot slot of a die. -/
def slotKey (d k : Nat) : Nat := dkey d 3 k

/-- A die's part in the Hold of a group. -/
def State.holdOf (s : State) (g d : Nat) : Option Hold := (s.die d).holds.find? (fun h => h.group == g)

/-- A Hold ends on a die: HOLD_US is recorded. -/
def Die.unhold (x : Die) (h : Hold) (now : Word) : Die :=
  { x with holds := x.holds.filter (fun y => y.group != h.group), holdUs := BitVec.ofNat 32 ((now - h.start).toNat / 1000) }

/-- The Hold of a group ends on every die: a slot that is still being written returns to empty (R318); a sealed one stays sealed
(R329). -/
def State.endHold (s : State) (g : Nat) : State :=
  dieIds.foldl (fun s d =>
    match s.holdOf g d with
    | some h =>
      (if h.sealed then s else s.modCkpt (slotKey d h.slot) (fun k => { k with state := 0, step := 0, group := 0 })).modDie d
        (fun x => x.unhold h s.time.now)
    | none => s) s

/-- The slots that a group's DRAIN reads return to sealed (R321). -/
def State.endDrains (s : State) (g : Nat) : State :=
  { s with ckpts := SMap.mapAll {} (fun _ k => if k.state = 3 ∧ k.group = g then { k with state := 2, group := 0 } else k) s.ckpts }

/-- Forget what the partner has said of the checkpoint entries of a group's dies. -/
def State.clearCkptMarks (s : State) (g : Nat) : State :=
  let gone := fun k => (memberDies s g).contains k
  { s with pair := { s.pair with
    crcs := SMap.eraseIf gone s.pair.crcs
    facts := SMap.eraseIf gone s.pair.facts
    sealed := SMap.eraseIf gone s.pair.sealed
    refused := SMap.eraseIf gone s.pair.refused } }

/-- Every member's started checkpoint entry completes with one status (R315). -/
def State.closeCkpt (s : State) (g : Nat) (code : Code) : State :=
  let s := ((s.endHold g).endDrains g).clearCkptMarks g
  (members s g).foldl (fun s Q =>
    match (s.queue Q).ckptEntry with
    | some e => (s.closeEntry Q e code).closeReady Q (s.queue Q).entries.length
    | none => s) s

/-! ### Queues that a fence halts -/

/-- Halt a queue at DONE. The commit entry of a commit that has taken effect stays, and completes once the partner has
reported (R203, R210); updates that lead what the queue has started go on where the fence does not stop them (R157)
(DEDUCED, log 115). -/
def State.haltHere (s : State) (Q : Nat) (code : Code) (updates : Bool) : State :=
  let kept := (s.queue Q).entries.takeWhile (fun e => s.inEffect Q e || (updates && e.desc.cls == 4 && e.stat.isStarted))
  (s.haltAt Q (s.queue Q).done code).modQueue Q (fun q => { q with entries := kept })

/-- Halt one queue for a fence (R30): the lowest entry in flight there completes with REGION_FENCED and halts the
queue, and its commit is stopped if it is a commit entry (R205), unless phase 2 has been written: then the commit has taken
effect (R210). A queue that is bound there and has no entry in flight there halts at DONE, entries in flight elsewhere
being dropped without a record (DESIGN CHOICE, log 106). A queue that is halted already stays as it is (DEDUCED, log 27 and
log 100). -/
def State.fenceQueue (s : State) (Q : Nat) (here : Desc → Bool) (boundHere updates : Bool) : State :=
  let q := s.queue Q
  match q.entries.find? (fun e => e.stat == .started && here e.desc && !s.inEffect Q e) with
  | some e =>
    let s := s.closeEntry Q e Status.regionFenced
    if e.desc.cls = 5 then s.failCommit (groupOf s Q) Status.regionFenced
    else if e.desc.cls = 8 then s.closeCkpt (groupOf s Q) Status.regionFenced else s
  | none => if boundHere && q.enable && !q.halted then s.haltHere Q Status.regionFenced updates else s

/-- Paired queues that a fence halted, and every member of their commit groups, become held by partner (R207). -/
def State.holdPaired (s : State) (Qs : List Nat) : State :=
  let hit := Qs.filter (fun Q => (s.queue Q).paired && (s.queue Q).enable)
  (enabledQueues s).foldl (fun s Q =>
    if hit.contains Q || hit.any (fun R => groupOf s R == groupOf s Q)
    then s.modQueue Q (fun q => { q with heldByPartner := true }) else s) s

/-- A frame to the mirror partner that tells it something (R206, R207). The spec gives TYPE 5 frames no words
(R284), so words 1 and 2 are free values (log 20). -/
def State.sayPartner (s : State) (last : Bool) (payload : List Byte) : State :=
  match s.portOfRole 7 with
  | some p =>
    if (s.port p).state = .up ∧ ¬ (s.die (p / 2)).fenced then
      let a := s.draw
      let b := a.2.draw
      b.2.modPort p (fun x => { x with waiting := x.waiting ++
        [(8, { typ := 5, vc := 0, dateline := false, tenant := 0, epoch := 0, last := last, raised := false,
               w1 := a.1, w2 := b.1, payload := payload })] })
    else s
  | none => s

/-- A frame without payload. -/
def State.tellPartner (s : State) : State := s.sayPartner false []

/-- Bytes for the partner, in frames of up to 480; LAST marks the end of them (R321). -/
def State.streamPartner (s : State) : Nat → List Byte → State
  | 0, _ => s
  | n + 1, bs => if bs.isEmpty then s else (s.sayPartner (bs.length ≤ 480) (bs.take 480)).streamPartner n (bs.drop 480)

/-- Mark the switch of a turn as met by a fence (R88, R92). -/
def State.noteFence (s : State) : State :=
  if s.img.turnState = .switch then { s with img := { s.img with switchFenced := true } } else s

/-! ### The fence of a die (R32) -/

/-- Fence a die. Causes: 1 stack lost, 2 Troroik silent, 3 both regions, 4 self-test, 5 HBM (R227). -/
def State.fenceDie (s : State) (d cause : Nat) : State :=
  if (s.die d).fenced then s
  else
    let Qs := s.queuesOf d
    let s := s.modDie d (fun x => { x with fenced := true, statWest := none, statEast := none })
    let s := Qs.foldl (fun s Q => s.fenceQueue Q (fun _ => true) true false) s
    let s := (s.holdPaired Qs).settleAllGates
    let s := dieIds.foldl (fun s e => if e = d then s else s.modDie e (fun x => { x with d2dDown := x.d2dDown ||| (1 <<< d) })) s
    let s := (s.raise d (srcDieFence d)).post d 0x000B Status.regionFenced cause (srcDieFence d)
    (s.noteFence).tellPartner

/-! ### The fence of a region (R30) -/

/-- The queues of a die that the applied records bind to a region: REGION 2 binds to both. -/
def State.boundTo (s : State) (h : Half) (Q : Nat) : Bool :=
  match s.binding Q with
  | some b => b.region == 2 || b.region == h.num
  | none => false

/-- Fence a region. Causes: 1 Vat UE, 2 parity, 3 pending handshake (R227). -/
def State.fenceRegion (s : State) (d : Nat) (h : Half) (cause : Nat) : State :=
  if s.fencedAt d h then s
  else
    let Qs := (s.queuesOf d).filter (fun Q => s.boundTo h Q
      || (s.queue Q).entries.any (fun e => e.stat == .started && s.inRegion Q e.desc h))
    let s0 := s
    let s := s.modDie d (fun x => match h with
      | .west => { x with fencedWest := true, statWest := none }
      | .east => { x with fencedEast := true, statEast := none })
    let s := Qs.foldl (fun s Q => s.fenceQueue Q (fun x => s0.inRegion Q x h) (s0.boundTo h Q) true) s
    let s := (s.holdPaired (Qs.filter (s0.boundTo h))).settleAllGates
    let s := (s.raise d (srcRegionFence h)).post d 0x000A Status.regionFenced (h.num * 256 + cause) (srcRegionFence h)
    let s := (s.noteFence).tellPartner
    if (s.die d).fencedWest && (s.die d).fencedEast then s.fenceDie d 3 else s

/-- The halves in which a read met a double-bit Vat error are fenced: UE, cause 1 (R167). -/
def State.fenceUe (s : State) (d : Nat) (hs : List Half) : State :=
  hs.foldl (fun s h => (s.raise d srcVatUe).fenceRegion d h 1) s

/-- Read the Vat for a descriptor (R167): correct single-bit errors, fence on double-bit ones. True when a region
was fenced, so that the descriptor cannot go on. -/
def State.senseVat (s : State) (d : Nat) (xs : List Span) : State × Bool :=
  let hs := s.vatUe d xs
  if hs.isEmpty then (s.correctVat d xs, false) else ((s.correctVat d xs).fenceUe d hs, true)

/-! ### Engines in grant order (R112, R144, R151, R157) -/

/-- Two lists have an element in common. -/
def meets (xs ys : List Nat) : Bool := xs.any (fun x => ys.contains x)

/-- Started entries of a die, with their queues. -/
def State.startedOn (s : State) (d : Nat) : List (Nat × Entry) :=
  (s.queuesOf d).flatMap (fun Q => ((s.queue Q).entries.filter (fun e => e.stat == .started)).map (fun e => (Q, e)))

/-- No descriptor granted earlier is still in an engine that the entry needs: descriptors pass in grant order. -/
def State.itsTurn (s : State) (Q : Nat) (e : Entry) : Bool :=
  (s.startedOn (dieOfQ Q)).all (fun f =>
    decide (e.grant ≤ f.2.grant) || !meets (s.engines Q e.desc) (s.engines f.1 f.2.desc))

/-! ### Running the started entry of a descriptor row -/

/-- The engine of an entry has ended with a status; an entry that a fence closed meanwhile stays closed. -/
def State.endEntry (s : State) (Q seq : Nat) (code : Code) : State :=
  s.modQueue Q (fun q => match q.entry seq with
    | some e => if e.stat = .started then q.setStat seq (.ended code) else q
    | none => q)

/-- Run a descriptor row on the started entry `seq` of queue `q` of die `d`, if there is one of the row's class and
operation: `f` gives the state after the engine's work and the status, or none while the descriptor waits. Where
HBM access has stopped (R52, R58) no engine goes on, and an engine takes its descriptors in grant order. An entry of another
row, or none, is left as it is (log 8) (DESIGN CHOICE, log 51). -/
def runEntry (s : State) (d : DieId) (q : QId) (seq : BitVec 48) (row : Desc → Bool)
    (f : State → Nat → Desc → State × Option Code) : State :=
  let Q := qnum d q
  match (s.queue Q).entry seq.toNat with
  | some e =>
    if e.stat = .started && row e.desc && !s.power.hbmOff && s.itsTurn Q e then
      let r := f s Q e.desc
      match r.2 with
      | some code => (r.1.endEntry Q seq.toNat code).settleGates d.val
      | none => r.1
    else s
  | none => s

end Sys2Proof.Machine
end

