-- ==== Sys2Proof/Machine/Plans.lean ====
section
/-! DEFINITION. The plan of a collective entry (R297, R298, R301, R305): its fields, the split of a bucket, the lines of members,
the way of a job frame, and the ports on which a bucket awaits frames (R287). -/

namespace Sys2Proof.Machine

/-- The key of a bucket in progress. -/
def bucketKey (j b : Nat) : Nat := j * 2 ^ 24 + b

/-- Take entries out of a bucket; frames that came early stay. -/
def Bucket.without (b : Bucket) (gone : BucketEntry → Bool) : Bucket :=
  let es := b.entries.filter (fun e => !gone e)
  if es.isEmpty then { inbox := b.inbox } else { b with entries := es }

/-! ### The entry (R305) -/

/-- The fields of a collective entry. -/
structure Plan where
  op : Nat
  ring : Bool
  dims : Nat
  mask : Nat
  srcVat : Bool
  dstVat : Bool
  depth : Nat
  src : Nat
  dst : Nat
  conv : Conv
  bucket : Nat
  run : Nat
  count : Nat
  job : Nat
  deriving DecidableEq, Repr

def planOf (x : Desc) : Plan :=
  { op := fld x.w10 63 61, ring := bitAt x.w10 60, dims := fld x.w10 59 57, mask := fld x.w10 56 53,
    srcVat := bitAt x.w10 52, dstVat := bitAt x.w10 51, depth := fld x.w10 50 49, src := fld x.w10 48 45,
    dst := fld x.w10 44 41, conv := convOf (x.w10.truncate 32), bucket := fld x.w18 63 40, run := fld x.w18 39 32,
    count := fld x.w18 31 0, job := x.job }

/-- The member dies of a package, ascending (R297). -/
def Plan.dies (pl : Plan) : List Nat := dieIds.filter (fun d => pl.mask.testBit d)
/-- Rank of a die among them. -/
def Plan.dieRank (pl : Plan) (d : Nat) : Nat := (pl.dies.filter (fun e => decide (e < d))).length

/-! ### The split (R298) -/

def splitPart (lo hi n i : Nat) : Nat × Nat :=
  let u := ceilDiv (hi - lo) 128
  (lo + 128 * (u * i / n), min hi (lo + 128 * (u * (i + 1) / n)))
/-- The part that holds an element. -/
def partOf (lo hi n e : Nat) : Nat :=
  ((List.range n).find? (fun i => let p := splitPart lo hi n i; decide (p.1 ≤ e) && decide (e < p.2))).getD 0

/-! ### Lines of members -/

def Coord.size (c : Coord) : Nat → Nat
  | 0 => c.dimX + 1
  | 1 => c.dimY + 1
  | _ => c.dimZ + 1
def Coord.pos (c : Coord) : Nat → Nat
  | 0 => c.x
  | 1 => c.y
  | _ => c.z

/-- Packages of the NF2 ring and this package's place in it (R301): dimensions outside DIMS count as one place. -/
def Plan.ringSize (pl : Plan) (c : Coord) : Nat :=
  ([0, 1, 2].filter (fun k => pl.dims.testBit k)).foldl (fun a k => a * c.size k) 1
def Plan.ringPos (pl : Plan) (c : Coord) : Nat :=
  ([2, 1, 0].filter (fun k => pl.dims.testBit k)).foldl (fun a k => a * c.size k + c.pos k) 0
/-- Coordinate, in dimension `k`, of the package at a place of the ring. -/
def Plan.ringCoord (pl : Plan) (c : Coord) (i k : Nat) : Nat :=
  if pl.dims.testBit k then
    i / (([0, 1, 2].filter (fun j => decide (j < k) && pl.dims.testBit j)).foldl (fun a j => a * c.size j) 1) % c.size k
  else c.pos k

/-- A stage of the reduce phase: DIM, the size of the line, this package's place. -/
structure Stage where
  dim : Nat
  n : Nat
  pos : Nat
  deriving DecidableEq, Repr

/-- The stages of a bucket (R298, R299, R301): a dimension of size 1 contributes nothing. -/
def Plan.stages (pl : Plan) (c : Coord) : List Stage :=
  if pl.ring then
    (if 1 < pl.ringSize c then [{ dim := 3, n := pl.ringSize c, pos := pl.ringPos c }] else [])
  else ([0, 1, 2].filter (fun k => pl.dims.testBit k && decide (1 < c.size k))).map
    (fun k => { dim := k, n := c.size k, pos := c.pos k })

/-- Ranks of the ring (R301). -/
def Plan.ranks (pl : Plan) (c : Coord) : Nat := pl.dies.length * pl.ringSize c

/-! ### The way of a frame -/

/-- The role through which a frame to a coordinate leaves (R288): X first, then Y, then Z, the shorter way round, ties
to +. -/
def routeRole (c : Coord) (dest : Nat × Nat × Nat) : Option Nat :=
  let step := fun (k t : Nat) =>
    let n := c.size k
    let up := (t + n - c.pos k) % n
    if up = 0 then none else if up ≤ n - up then some (2 * k + 1) else some (2 * k + 2)
  (step 0 dest.1).or ((step 1 dest.2.1).or (step 2 dest.2.2))

/-- The torus role of the port by which the frames of the place before this one in the ring arrive: that of the last dimension
in which the two differ (R288, R301). -/
def Plan.ringArrival (pl : Plan) (c : Coord) : Option Nat :=
  let i := (pl.ringPos c + pl.ringSize c - 1) % pl.ringSize c
  ([2, 1, 0].find? (fun k => pl.ringCoord c i k != c.pos k)).map (fun k =>
    let up := (c.pos k + c.size k - pl.ringCoord c i k) % c.size k
    if up ≤ c.size k - up then 2 * k + 2 else 2 * k + 1)

/-- A bucket awaits frames on a port of a role: what travels upward comes in on the − port of a dimension, what travels downward,
in the gather phase of a line of 3 or more, on the + port (R299, R302). -/
def Plan.arrives (pl : Plan) (c : Coord) (role : Nat) : Bool :=
  if pl.ring then pl.ringArrival c == some role
  else (pl.stages c).any (fun st => role == 2 * st.dim + 2
    || (role == 2 * st.dim + 1 && (pl.op == 1 || pl.op == 2) && decide (3 ≤ st.n)))

end Sys2Proof.Machine
end

