-- ==== Sys2Proof/Machine/LinkOps.lean ====
section
/-! DEFINITION. Ports and frames: what a role carries (R280), sending (R285, R288), exits from up and lost frames
(R286, R287), tenant tags (R290), and the shard map, target table and distribution table (R90, R292, R293). -/

namespace Sys2Proof.Machine

/-! ### Ports -/

/-- The ingress number of a frame that this package originates. -/
def localOrigin : Nat := 8

/-- A role carries a frame type (R280). -/
def carries (role typ : Nat) : Bool :=
  if decide (1 ≤ role) && decide (role ≤ 6) then decide (1 ≤ typ) && decide (typ ≤ 4)
  else if role = 7 then typ == 4 || typ == 5
  else if role = 8 then typ == 4
  else if role = 9 then typ == 5
  else false

/-- The port's cluster is gated by its GATE field (R29). -/
def State.portGate (s : State) (p : Nat) : Bool := (s.block (dkey (p / 2) 134 (132 + p % 2))).gate

/-- The state in which a port stands once it is not up: absent without lanes, down while it is gated, off or without
its reference clock, otherwise training (R279, R29, R51). -/
def State.restState (s : State) (p : Nat) : PortState :=
  if (s.port p).lanes = 0 then .absent
  else if s.portGate p || s.role p == 0 || bitAt s.power.linkRefOff (p / 2) then .down
  else .training

/-- A link in a direction wraps at this package (R285). -/
def State.wraps (s : State) (role : Nat) : Bool :=
  let c := s.coord
  match role with
  | 1 => c.x == c.dimX
  | 2 => c.x == 0
  | 3 => c.y == c.dimY
  | 4 => c.y == 0
  | 5 => c.z == c.dimZ
  | 6 => c.z == 0
  | _ => false

/-- Frames pass between two dies: over a die-to-die interface that is not down (R32, R281). -/
def State.crosses (s : State) (a b : Nat) : Bool := a == b || !bitAt (s.die a).d2dDown b

/-- Queue a frame at a port, or drop and count it where the port may not take it (R288), or where it would come over a
die-to-die interface that is down (DEDUCED, log 129). `home` is the die that it comes from. -/
def State.sendOut (s : State) (p ingress home : Nat) (f : Frame) : State :=
  let ok := (s.port p).state == .up && carries (s.role p) f.typ.toNat && (ingress == localOrigin || s.pass p)
    && s.crosses home (p / 2)
  if ok then
    let f := { f with dateline := f.dateline || s.wraps (s.role p) }
    s.modPort p (fun x => { x with waiting := x.waiting ++ [(ingress, f)] })
  else s.modPort p (fun x => { x with lostCount := ctrAdd x.lostCount 1 })

/-- Count a discarded frame as stale (R280, R291, R293, R304). -/
def State.stale (s : State) (p : Nat) : State := s.modPort p (fun x => { x with staleCount := ctrAdd x.staleCount 1 })

/-- The key epoch that frames of a tenant carry (R290). -/
def State.linkEpoch (s : State) (t : Nat) : BitVec 2 := if s.linkTagRequired then (s.tenant t).newest else 0

/-- A frame fails the tenant tag check (R290). -/
def State.tagFails (s : State) (f : Frame) : Bool :=
  s.linkTagRequired && f.tenant != 0 && !(s.tenant f.tenant.toNat).hasKey f.epoch

/-- Drop a frame whose tag check failed (R290). DETAIL as R355 gives it. -/
def State.tenantDrop (s : State) (p : Nat) (f : Frame) : State :=
  let d := p / 2
  ((s.modDie d (fun x => { x with tenantDrops := ctrAdd x.tenantDrops 1 })).raise d srcTenantDrop).post d 0x0011
    Status.tenantRevoked (f.tenant.toNat * 2 ^ 32 + f.epoch.toNat * 2 ^ 24 + p) srcTenantDrop

/-! ### Leaving up (R286, R287) -/

/-- The dies of the package that have an entry of a job in progress. -/
def State.jobDies (s : State) (j : Nat) : List Nat :=
  dieIds.filter (fun d => s.buckets.any (fun b => b.1 / 2 ^ 24 == j && b.2.entries.any (fun e => e.die.val == d)))

/-- A job lost a frame on a port (R287): LOST on every member die of the package, and its source. -/
def State.jobLost (s : State) (j : Nat) : State :=
  (s.jobDies j).foldl (fun s d => (s.modJobFlags (dkey d 4096 j) (fun x => { x with lost := true })).raise d (srcJob j)) s

/-- The jobs that await frames on a port: those with a bucket in progress whose plan says so (R287). -/
def State.jobsAwaiting (s : State) (p : Nat) : List Nat :=
  ((s.buckets.filter (fun b => !b.2.formed && b.2.entries.any (fun e =>
    (planOf e.desc).arrives s.coord (s.role p)))).map (fun b => b.1 / 2 ^ 24)).eraseDups

/-- The consequence of one lost frame (R287). -/
def State.frameLost (s : State) (p : Nat) (f : Frame) : State :=
  match f.typ.toNat with
  | 1 => s.modPort p (fun x =>
      if x.lostShards.any (fun l => fld l.w1 39 0 == fld f.w1 39 0) then x
      else { x with lostShards := x.lostShards ++ [{ w1 := f.w1, tenant := f.tenant }] })
  | 2 => s.modPort p (fun x => { x with lostMarkers := x.lostMarkers ++ [f] })
  | 3 => s.jobLost (fld f.w1 63 52)
  | _ => s

/-- A port leaves up (R286, R287, R29): its unsent and unacknowledged frames are lost and counted (log 30), DOWN is
set, and it stands as `st`. -/
def State.leaveUp (s : State) (p : Nat) (st : PortState) : State :=
  let x := s.port p
  let lost := x.unacked.map Sent.frame ++ x.waiting.map Prod.snd
  let awaited := (s.jobsAwaiting p).filter (fun j => !lost.any (fun f => f.typ == 3 && fld f.w1 63 52 == j))
  let s := s.modPort p (fun y => { y with
    state := st, lostCount := ctrAdd y.lostCount lost.length, unacked := [], waiting := [], txSeq := 0, rxSeq := 0
    freed := [], nakDue := false, partnerSet := false })
  (awaited.foldl State.jobLost (lost.foldl (fun s f => s.frameLost p f) s)).raise (p / 2) (srcPortDown p)

/-- Take a port out of what it is into the state its lanes, gate and role give it. -/
def State.settlePort (s : State) (p : Nat) : State :=
  let st := s.restState p
  if (s.port p).state = .up then s.leaveUp p st else s.modPort p (fun x => { x with state := st })

/-! ### Distribution (R292) -/

/-- Send a frame out of every port of a distribution entry. -/
def State.distribute (s : State) (ingress home dist : Nat) (f : Frame) : State :=
  portIds.foldl (fun s p => if bitAt (s.distEntry dist) (8 + p) then s.sendOut p ingress home f else s) s

/-- KEEP of a distribution entry. -/
def State.keeps (s : State) (dist : Nat) : Bool := bitAt (s.distEntry dist) 0

/-! ### The shard map and target table (R90, R293) -/

def State.shardState (s : State) (i : Nat) : Nat :=
  ((s.hbmByte (s.img.mapBase.toNat + i / 4)).toNat / 4 ^ (i % 4)) % 4

/-- Write a map entry and keep PRESENT and ABSENT. -/
def State.setShardState (s : State) (i v : Nat) : State :=
  let o := s.shardState i
  let a := s.img.mapBase.toNat + i / 4
  let b := (s.hbmByte a).toNat
  let s := s.storeHbm a [BitVec.ofNat 8 (b - o * 4 ^ (i % 4) + v * 4 ^ (i % 4))]
  let add := fun (x : BitVec 32) (k : Nat) => x + BitVec.ofNat 32 (bnum (v == k)) - BitVec.ofNat 32 (bnum (o == k))
  { s with img := { s.img with present := add s.img.present 1, absent := add s.img.absent 2 } }

/-- Address of the target table entry of a shard. -/
def State.targetAddr (s : State) (i : Nat) : Nat := s.shardTable.toNat + 16 * i
def State.targetWord (s : State) (i k : Nat) : Word :=
  BitVec.ofNat 64 (ofLe (s.hbmBytes (s.targetAddr i + 8 * k) 8))
def State.setTargetWord (s : State) (i k v : Nat) : State := s.storeHbm (s.targetAddr i + 8 * k) (leBytes 8 v)

/-- TURN_TAG of the frames of this package (R284). -/
def State.turnTag (s : State) : Nat := (s.img.turnCount.toNat + 1) % 2 ^ 24

/-- Word 1 of a shard or absent frame (R284). -/
def shardW1 (tag dist hops shard : Nat) : Word := packWord [(tag, 40), (dist, 32), (hops, 24), (shard, 2)]

/-- An absent marker (R284). -/
def State.marker (s : State) (t dist hops shard : Nat) : Frame :=
  { typ := 2, vc := 1, dateline := false, tenant := BitVec.ofNat 7 t, epoch := s.linkEpoch t, last := false,
    raised := false, w1 := shardW1 s.turnTag dist hops shard, w2 := 0, payload := [] }

/-- The owner of the pages a shard is stored in. -/
def State.shardOwner (s : State) (i : Nat) : Nat := (s.tag (pageOf (fld (s.targetWord i 0) 63 22))).owner

/-- Originate an absent marker on a shard's onward path, when that is known (R90, R293). -/
def State.onwardMarker (s : State) (i : Nat) : State :=
  let w := s.targetWord i 0
  let hops := fld w 13 6
  if bitAt w 5 && decide (2 ≤ hops) then
    s.distribute localOrigin (hbmDie (s.targetAddr i)) (fld w 21 14) (s.marker (s.shardOwner i) (fld w 21 14) (hops - 1) i)
  else s

/-- A shard becomes absent unless it is present or absent already, or HBM is out of reach (R90): ABSENT, its code, Thyme log event 0x0007. -/
def State.markAbsent (s : State) (i : Nat) : State :=
  if s.shardState i = 0 ∧ ¬ s.power.hbmOff then
    let s := s.setShardState i 2
    let s := { s with img := { s.img with turnCode := Status.shardAbsent } }
    (s.raise 0 srcTurnAbsent).postPkg 0x0007 Status.shardAbsent i srcTurnAbsent
  else s

/-- The replay of a shard's frame is exhausted on a port (R90, R293): while the turn can accept the shard, one that is still
awaited here becomes absent, and its marker goes out (DEDUCED, log 130). -/
def State.shardCutOff (s : State) (f : Frame) : State :=
  let i := fld f.w1 23 2
  if f.typ = 1 ∧ (s.img.turnState = .press ∨ s.img.turnState = .await) ∧ fld f.w1 63 40 = s.turnTag ∧ i < s.img.expected.toNat
      ∧ s.shardState i = 0 then (s.markAbsent i).onwardMarker i
  else s

/-- A shard becomes present (R293), unless HBM is out of reach (R52, R58): then neither its bytes nor its map entry are written,
and a flip never rests on it (R13). -/
def State.markPresent (s : State) (i : Nat) : State :=
  if s.shardState i = 1 ∨ s.power.hbmOff then s else s.setShardState i 1

/-- Where the local copy of a shard stands, and its bytes (R293, R295). -/
def State.shardCopy (s : State) (i : Nat) : Nat × Nat :=
  match SMap.get none s.img.copies i with
  | some c => (c.1.toNat, c.2)
  | none => (fld (s.targetWord i 0) 63 22, fld (s.targetWord i 1) 63 32)

/-- Shards of a turn: indexes below EXPECTED. -/
def State.shardCount (s : State) : Nat := s.img.expected.toNat

/-- Store a shard frame (R293): OFFSET 0 starts the shard anew; OFFSET in sequence is written at ADDR + OFFSET; LAST at LENGTH makes the shard present
(DEDUCED, log 89). -/
def State.storeShard (s : State) (p : Nat) (f : Frame) : State :=
  let i := fld f.w1 23 2
  let off := fld f.w2 63 32
  if s.shardCount ≤ i then s.stale p
  else
    let w := s.targetWord i 0
    let s := if bitAt w 5 then s
      else s.setTargetWord i 0 (fld w 63 22 * 2 ^ 22 + fld f.w1 39 32 * 2 ^ 14 + fld f.w1 31 24 * 2 ^ 6 + 2 ^ 5)
    if s.shardState i = 1 then s.modPort p (fun x => { x with replayCount := ctrAdd x.replayCount 1 })
    else
      let w1 := s.targetWord i 1
      let len := fld w1 63 32
      let received := if off = 0 then 0 else fld w1 31 0
      let s := if off = 0 then s.setTargetWord i 1 (len * 2 ^ 32) else s
      if off ≠ received ∨ len < off + f.payload.length then s.stale p
      else
        let r := s.writeHbm f.tenant.toNat (fld w 63 22 + off) f.payload
        match r.2 with
        | some _ => r.1.stale p
        | none =>
          let s := r.1.setTargetWord i 1 (len * 2 ^ 32 + (off + f.payload.length))
          if f.last && off + f.payload.length == len then s.markPresent i else s

end Sys2Proof.Machine
end

