-- ==== Sys2Proof/Machine/JobOps.lean ====
section
/-! DEFINITION. Reduction jobs (R297 to R304): the split of a bucket, the fixed summation orders, the wire format and
its scale ratchet, the gather phase and the closing exchange, as the frames of a bucket drive them. -/

namespace Sys2Proof.Machine

/-- The range this package holds before stage `k`. -/
def Plan.range (pl : Plan) (c : Coord) (k : Nat) : Nat × Nat :=
  if pl.ring then
    if k = 0 then (0, pl.count)
    else
      let m := pl.dies.length
      ((splitPart 0 pl.count (pl.ranks c) (pl.ringPos c * m)).1,
       (splitPart 0 pl.count (pl.ranks c) (pl.ringPos c * m + m - 1)).2)
  else ((pl.stages c).take k).foldl (fun r st => splitPart r.1 r.2 st.n st.pos) (0, pl.count)

/-- The place in stage `k`'s line that owns an element. -/
def Plan.owner (pl : Plan) (c : Coord) (k e : Nat) (st : Stage) : Nat :=
  if pl.ring then partOf 0 pl.count (pl.ranks c) e / pl.dies.length
  else let r := pl.range c k; partOf r.1 r.2 st.n e

/-- The range that the place `o` of stage `k`'s line owns. -/
def Plan.ownerRange (pl : Plan) (c : Coord) (k o : Nat) (st : Stage) : Nat × Nat :=
  if pl.ring then
    let m := pl.dies.length
    ((splitPart 0 pl.count (pl.ranks c) (o * m)).1, (splitPart 0 pl.count (pl.ranks c) (o * m + m - 1)).2)
  else let r := pl.range c k; splitPart r.1 r.2 st.n o

/-- The range that a die owns once the package range is final (R298, R301). -/
def Plan.dieRange (pl : Plan) (c : Coord) (d : Nat) : Nat × Nat :=
  if pl.ring then splitPart 0 pl.count (pl.ranks c) (pl.ringPos c * pl.dies.length + pl.dieRank d)
  else let r := pl.range c (pl.stages c).length; splitPart r.1 r.2 pl.dies.length (pl.dieRank d)

/-! ### The operands of an entry (R302, R305) -/

/-- Reserved bits and staging curds of an entry. -/
def stageBase (x : Desc) : Nat := fld x.w30 63 38
def stageCurds (x : Desc) : Nat := fld x.w30 37 28

def Plan.srcElems (pl : Plan) (c : Coord) (d : Nat) : Nat :=
  if pl.op = 2 then (pl.dieRange c d).2 - (pl.dieRange c d).1 else pl.count
def Plan.srcFmt (pl : Plan) : Nat := if pl.op = 2 then pl.dst else pl.src
def Plan.dstElems (pl : Plan) (c : Coord) (d : Nat) : Nat :=
  match pl.op with
  | 0 => (pl.dieRange c d).2 - (pl.dieRange c d).1
  | 3 => 0
  | _ => pl.count
def Plan.srcBytes (pl : Plan) (c : Coord) (d : Nat) : Nat := elemBytes pl.srcFmt (pl.srcElems c d)
def Plan.dstBytes (pl : Plan) (c : Coord) (d : Nat) : Nat := elemBytes pl.dst (pl.dstElems c d)

/-- The span of a Vat operand: none in HBM or without bytes. -/
def vatSpan (on : Bool) (a n : Nat) (write : Bool) : List Span :=
  if on && n != 0 then [{ base := a, rowBytes := n, stride := n, rows := 1, write := write }] else []

def srcSpan (pl : Plan) (c : Coord) (d : Nat) (x : Desc) : List Span := vatSpan pl.srcVat x.w20.toNat (pl.srcBytes c d) false
def dstSpan (pl : Plan) (c : Coord) (d : Nat) (x : Desc) : List Span := vatSpan pl.dstVat x.w28.toNat (pl.dstBytes c d) true
def stageSpan (x : Desc) : List Span := vatSpan true (stageBase x) (stageCurds x * 65536) true

/-! ### Sums -/

/-- rne32 of the exact sum of two binary32 values (R106, R299). -/
def f32Sum (a b : F32) : F32 := rne32 (Val.add (f32Val a) (f32Val b))

/-- A sum of the terms there are (R299). -/
def optSum : Option F32 → Option F32 → Option F32
  | some a, some b => some (f32Sum a b)
  | some a, none => some a
  | none, b => b

/-- The value a die contributes for an element, converted exactly to binary32. -/
def Bucket.term (b : Bucket) (d e : Nat) : Option F32 :=
  (b.entries.find? (fun x => x.die.val == d)).map (fun x => x.src.getD e 0)

/-- The die tree (R299). -/
def Bucket.dieTree (b : Bucket) (e : Nat) : F32 :=
  (optSum (optSum (b.term 0 e) (b.term 1 e)) (optSum (b.term 2 e) (b.term 3 e))).getD 0

/-! ### The wire (R300, R307) -/

/-- Elements of a frame in a format. -/
def frameElems (fmt blk : Nat) : Nat :=
  match fmt with
  | 0 => 120
  | 2 => 240
  | _ => if blk = 4 then 384 else 448

/-- What one block becomes on the wire: scale code, elements, raised, counts. -/
def wireBlock (c : Conv) (sIn : Int) (vs : List F32) : Nat × List Nat × Bool × ConvCount :=
  let xs := vs.map (f32In c.nf2)
  if xs.any (fun v => !v.isFin) then (0xFF, vs.map (fun _ => 0), false, { nonfinite := 1 })
  else
    let e := max sIn (blockExp c.fmt 0 0 xs).1
    let rs := xs.map (fun v => convertVal c.fmt 0 c.sat c.nf2 0 (v.scale (-e)))
    ((e + 127).toNat, rs.map Prod.fst, decide (sIn < e), rs.foldl (fun a r => a.add r.2) {})

/-- The elements of a frame on the wire: payload, blocks raised, counts. `scales` are the scales received. -/
def wireRun (c : Conv) : Nat → List Int → List F32 → List Nat × List Nat × Nat × ConvCount
  | 0, _, _ => ([], [], 0, {})
  | fuel + 1, scales, vs =>
    if vs.isEmpty then ([], [], 0, {})
    else if c.blk = 0 then
      let rs := vs.map (fun v => convertVal c.fmt 0 c.sat c.nf2 0 (f32In c.nf2 v))
      (rs.map Prod.fst, [], 0, rs.foldl (fun a r => a.add r.2) {})
    else
      let b := blkSize c.blk
      let h := wireBlock c (scales.headD (-127)) (vs.take b)
      let t := wireRun c fuel (scales.drop 1) (vs.drop b)
      (h.2.1 ++ t.1, h.1 :: t.2.1, bnum h.2.2.1 + t.2.2.1, h.2.2.2.add t.2.2.2)

/-- Payload bytes of a frame (R284): packed elements, then the block scales. -/
def wirePayload (fmt : Nat) (codes scales : List Nat) : List Byte :=
  packElems fmt codes ++ scales.map (fun x => BitVec.ofNat 8 x)

/-- Read `n` elements off a payload: their encodings and, with blocks, the scale codes. -/
def readPayload (fmt blk n : Nat) (bs : List Byte) : List Nat × List Nat :=
  let rd := fun i => bs.getD i 0
  ((List.range n).map (fun j => elemAt rd fmt 0 j),
   if blk = 0 then [] else (bs.drop (elemBytes fmt n)).map BitVec.toNat)

/-- Payload bytes of `n` elements. -/
def payloadLen (fmt blk n : Nat) : Nat := elemBytes fmt n + (if blk = 0 then 0 else ceilDiv n (blkSize blk))

/-- The value of element `j` of a payload. -/
def wireVal (fmt blk : Nat) (r : List Nat × List Nat) (j : Nat) : Val :=
  let v := decodeElem fmt (r.1.getD j 0)
  if blk = 0 then v else scaled v (r.2.getD (j / blkSize blk) 127)

/-- The agreed scale (R300) from a history word, newest code in bits 7:0. -/
def agreedScale (fmt depth : Nat) (hist : BitVec 32) : Int :=
  let hs := ((List.range (depth + 1)).map (fun i => fld hist (8 * i + 7) (8 * i))).filter (fun h => h != 0)
  match hs with
  | [] => -127
  | h :: t =>
    let m := t.foldl max h
    max (-127) (min 127 ((m : Int) - 127 - emaxOf fmt))

/-! ### Frames of a bucket -/

/-- The tenant of a bucket: OWNER of the posting queue (R290). -/
def State.bucketTenant (s : State) (b : Bucket) : Nat := ((b.entries.head?).map (fun e => s.ownerOf e.queue)).getD 0

/-- A job frame (R284). -/
def State.jobFrame (s : State) (t : Nat) (pl : Plan) (dim phase elem : Nat) (dest : Nat × Nat × Nat) (code : Nat)
    (last raised : Bool) (payload : List Byte) : Frame :=
  { typ := 3, vc := if phase = 0 then 2 else 3, dateline := false, tenant := BitVec.ofNat 7 t, epoch := s.linkEpoch t
    last := last, raised := raised
    w1 := packWord [(pl.job, 52), (pl.bucket, 28), (pl.run, 20), (dim, 18), (phase, 16)]
    w2 := packWord [(elem, 32), (dest.1, 27), (dest.2.1, 22), (dest.2.2, 17), (code, 0)], payload := payload }

/-- The die whose adders a package's sums are counted at: its lowest member die (DESIGN CHOICE, log 31). -/
def Plan.adder (pl : Plan) : Nat := pl.dies.headD 0

/-- Send a frame that arises on a die through the port that has a role. -/
def State.sendRole (s : State) (role home : Nat) (f : Frame) : State :=
  match s.portOfRole role with
  | some p => s.sendOut p localOrigin home f
  | none => s

/-- The place after (or before) a place of a line, and the coordinate of the package there. -/
def lineCoord (pl : Plan) (c : Coord) (st : Stage) (i : Nat) : Nat × Nat × Nat :=
  if pl.ring then (pl.ringCoord c i 0, pl.ringCoord c i 1, pl.ringCoord c i 2)
  else (if st.dim = 0 then i else c.x, if st.dim = 1 then i else c.y, if st.dim = 2 then i else c.z)

/-- Send a frame to the next place of a stage's line, upward or downward. -/
def State.sendLine (s : State) (pl : Plan) (st : Stage) (up : Bool) (mk : Nat × Nat × Nat → Frame) : State :=
  let c := s.coord
  let i := if up then (st.pos + 1) % st.n else (st.pos + st.n - 1) % st.n
  let dest := lineCoord pl c st i
  if pl.ring then
    match routeRole c dest with
    | some r => s.sendRole r pl.adder (mk dest)
    | none => s
  else s.sendRole (if up then 2 * st.dim + 1 else 2 * st.dim + 2) pl.adder (mk dest)

/-- Count conversions and raises of a bucket: each flag once per bucket (R136), RAISES of the job (R309). -/
def State.countJob (s : State) (K : Nat) (pl : Plan) (c : ConvCount) (raises : Nat) : State :=
  let d := pl.adder
  let b := s.bucket K
  let hit := ([(0, c.intSat), (1, c.sat), (2, c.ovf), (3, c.nonfinite), (4, c.clamp)].filter
    (fun x => x.2 != 0)).map Prod.fst
  let new := hit.filter (fun i => !b.counted.contains i)
  let s := s.modDie d (fun x => { x with
    satCount := ctrAdd x.satCount c.sat, ovfCount := ctrAdd x.ovfCount c.ovf,
    nonfiniteCount := ctrAdd x.nonfiniteCount c.nonfinite, clampCount := ctrAdd x.clampCount c.clamp,
    intSatCount := ctrAdd x.intSatCount c.intSat })
  let s := new.foldl (fun s i => s.raise d (srcConv i)) s
  let s := s.modBucket K (fun b => { b with counted := b.counted ++ new })
  s.modJobFlags (dkey d 4096 pl.job) (fun x => { x with raises := satAdd x.raises raises })

/-- Send binary32 partial sums of elements `e` on, frame by frame, to the next place of the line (R300, R307). `last`: they
end a piece, so that their last frame has LAST set (R283). -/
def State.sendSums (s : State) (K : Nat) (pl : Plan) (st : Stage) (last : Bool) : Nat → Nat → List Int → List F32 → State
  | 0, _, _, _ => s
  | fuel + 1, e, scales, vs =>
    if vs.isEmpty then s
    else
      let F := frameElems pl.conv.fmt pl.conv.blk
      let here := vs.take F
      let w := wireRun pl.conv here.length scales here
      let payload := wirePayload pl.conv.fmt w.1 w.2.1
      let t := s.bucketTenant (s.bucket K)
      let s := s.countJob K pl w.2.2.2 w.2.2.1
      let s := s.sendLine pl st true (fun dest =>
        s.jobFrame t pl st.dim 0 e dest 0 (last && decide (vs.length ≤ F)) (w.2.2.1 != 0) payload)
      s.sendSums K pl st last fuel (e + F) (scales.drop (F / max 1 (blkSize pl.conv.blk))) (vs.drop F)

/-! ### The NF2 ring (R301) -/

/-- Carry a partial sum through the ranks of this package: from rank `r`, `left` ranks at most, up to the owner rank
`c`. The flag says that the owner was reached. -/
def ringCarry (b : Bucket) (pl : Plan) (base c e : Nat) : Nat → Nat → F32 → ConvCount → F32 × Bool × ConvCount
  | 0, _, acc, n => (acc, false, n)
  | left + 1, r, acc, n =>
    let v := (b.term (pl.dies.getD (r - base) 0) e).getD 0
    let x := convertVal pl.conv.fmt 0 pl.conv.sat pl.conv.nf2 0 (f32In pl.conv.nf2 acc)
    let acc := rne32 (Val.add (decodeElem pl.conv.fmt x.1) (f32Val v))
    let n := n.add x.2
    if r = c then (acc, true, n) else ringCarry b pl base c e left (r + 1) acc n

/-- Start an element at rank `c + 1` of this package. -/
def ringStart (b : Bucket) (pl : Plan) (cc : Coord) (c e : Nat) : F32 × Bool × ConvCount :=
  let m := pl.dies.length
  let base := pl.ringPos cc * m
  let r := (c + 1) % pl.ranks cc
  let acc := (b.term (pl.dies.getD (r - base) 0) e).getD 0
  if r = c then (acc, true, {})
  else
    let x := ringCarry b pl base c e (base + m - (r + 1)) (r + 1) acc {}
    if x.2.1 || decide (1 < pl.ringSize cc) then x else ringCarry b pl base c e m base x.1 x.2.2

/-! ### Finishing elements -/

/-- Elements of a range. -/
def elemsOf (r : Nat × Nat) : List Nat := (List.range (r.2 - r.1)).map (fun i => r.1 + i)

/-- Store values of a run of elements and mark them finished. -/
def Bucket.finish (b : Bucket) (e : Nat) (vs : List (BitVec 32)) : Bucket :=
  { b with vals := SMap.setRun 0 b.vals e vs, fin := SMap.setRun false b.fin e (vs.map (fun _ => true)) }

def Bucket.allFin (b : Bucket) (r : Nat × Nat) : Bool := (elemsOf r).all (fun e => SMap.get false b.fin e)

/-- The largest finite magnitude among binary32 values. -/
def runCode (vs : List F32) : Nat :=
  let a := amax (vs.map f32Val)
  if a.1 = 0 then 0 else (max 1 (min 254 (topExp a.1 a.2 + 127))).toNat

/-! ### Phases -/

/-- Begin reduce stage `k` (R299, R301): send the elements whose line starts here; finish those that stay. -/
def State.startReduce (s : State) (K : Nat) (pl : Plan) (k : Nat) : State :=
  let c := s.coord
  let b := s.bucket K
  let hist := ((s.job (dkey pl.adder 4096 pl.job)).com).hist
  let a := agreedScale pl.conv.fmt pl.depth hist
  match (pl.stages c)[k]? with
  | none => s
  | some st =>
    if pl.ring then
      let m := pl.dies.length
      let base := pl.ringPos c * m
      (List.range m).foldl (fun s i =>
        let own := (base + i + pl.ranks c - 1) % pl.ranks c
        let r := splitPart 0 pl.count (pl.ranks c) own
        let xs := (elemsOf r).map (fun e => ringStart b pl c own e)
        let s := s.countJob K pl (xs.foldl (fun n x => n.add x.2.2) {}) 0
        if xs.all (fun x => x.2.1) then s.modBucket K (fun b => b.finish r.1 (xs.map Prod.fst))
        else s.sendSums K pl st true xs.length r.1 [] (xs.map Prod.fst)) s
    else
      let o := (st.pos + st.n - 1) % st.n
      let r := pl.ownerRange c k o st
      let vs := (elemsOf r).map (fun e => SMap.get 0 b.vals e)
      s.sendSums K pl st true vs.length r.1 (vs.map (fun _ => a)) vs

/-- Send delivered encodings on in the gather phase (R302). -/
def State.sendGather (s : State) (K : Nat) (pl : Plan) (st : Stage) (up last : Bool) : Nat → Nat → List (BitVec 32) → State
  | 0, _, _ => s
  | fuel + 1, e, vs =>
    if vs.isEmpty then s
    else
      let F := frameElems pl.dst 0
      let payload := packElems pl.dst ((vs.take F).map BitVec.toNat)
      let t := s.bucketTenant (s.bucket K)
      let s := s.sendLine pl st up (fun dest => s.jobFrame t pl st.dim 1 e dest 0 (last && decide (vs.length ≤ F)) false payload)
      s.sendGather K pl st up last fuel (e + F) (vs.drop F)

/-- Hops that an owner's range travels upward and downward in a line of `n` (R302). -/
def gatherHops (ring : Bool) (n : Nat) (up : Bool) : Nat :=
  if ring then (if up then n - 1 else 0) else if up then n / 2 else (n - 1) / 2

/-- Begin gather of stage `k`: send the own range both ways. -/
def State.startGather (s : State) (K : Nat) (pl : Plan) (k : Nat) : State :=
  let c := s.coord
  match (pl.stages c)[k]? with
  | none => s
  | some st =>
    let r := pl.range c (k + 1)
    let vs := (elemsOf r).map (fun e => SMap.get 0 (s.bucket K).vals e)
    let s := if gatherHops pl.ring st.n true = 0 then s else s.sendGather K pl st true true vs.length r.1 vs
    if gatherHops pl.ring st.n false = 0 then s else s.sendGather K pl st false true vs.length r.1 vs

/-- Send the run code along stage `k` of the closing exchange (R300). -/
def State.sendCode (s : State) (K : Nat) (pl : Plan) (st : Stage) (code : Nat) : State :=
  let t := s.bucketTenant (s.bucket K)
  s.sendLine pl st true (fun dest => s.jobFrame t pl st.dim 2 0 dest code true false [])

/-- Enter stage `k` of the closing exchange: the place after the first starts the pass of the maximum (log 32). -/
def State.enterClosing (s : State) (K : Nat) (pl : Plan) (k : Nat) : State :=
  match (pl.stages s.coord)[k]? with
  | none => s.modBucket K (fun b => { b with codeKnown := true })
  | some st =>
    if st.pos = 1 then
      (s.modBucket K (fun b => { b with closing := 3 * k + 1 })).sendCode K pl st (s.bucket K).code.toNat
    else s.modBucket K (fun b => { b with closing := 3 * k })

/-- The sums of this package's own range are final: their run code, and what follows (R300, R302). -/
def State.sumsFinal (s : State) (K : Nat) (pl : Plan) : State :=
  let c := s.coord
  let m := (pl.stages c).length
  let b := s.bucket K
  let own := pl.range c m
  let vs := (elemsOf own).map (fun e => SMap.get 0 b.vals e)
  let s := s.modBucket K (fun b => { b with code := BitVec.ofNat 8 (runCode vs), fin := [] })
  let s :=
    if pl.op = 1 then
      let rs := vs.map (fun v => convertVal pl.dst 0 pl.conv.sat false 0 (f32Val v))
      let s := s.countJob K pl (rs.foldl (fun a r => a.add r.2) {}) 0
      let s := s.modBucket K (fun b => { b.finish own.1 (rs.map (fun r => BitVec.ofNat 32 r.1)) with stage := m })
      s.startGather K pl (m - 1)
    else s.modBucket K (fun b => { b with stage := 2 * m })
  s.enterClosing K pl 0

/-- Every member die of the package has posted: begin (R299, R302). -/
def State.startBucket (s : State) (K : Nat) (pl : Plan) : State :=
  let c := s.coord
  let m := (pl.stages c).length
  let b := s.bucket K
  let s := s.modBucket K (fun b => { b with ready := true })
  match pl.op with
  | 3 =>
    let vs := b.entries.foldl (fun a e => a ++ e.src) []
    (s.modBucket K (fun b => { b with stage := 2 * m, code := BitVec.ofNat 8 (runCode vs) })).enterClosing K pl 0
  | 2 =>
    let s := s.modBucket K (fun b => b.entries.foldl (fun b e => b.finish (pl.dieRange c e.die.val).1 e.src)
      { b with stage := m, codeKnown := true })
    if m = 0 then s else s.startGather K pl (m - 1)
  | _ =>
    let tree := (List.range pl.count).map (fun e => b.dieTree e)
    let s := if pl.ring then s else s.modBucket K (fun b => { b with vals := SMap.setRun 0 [] 0 tree })
    if m = 0 then
      if pl.ring then
        let xs := (List.range pl.count).map (fun e => ringStart b pl c (partOf 0 pl.count (pl.ranks c) e) e)
        let s := s.countJob K pl (xs.foldl (fun n x => n.add x.2.2) {}) 0
        (s.modBucket K (fun b => b.finish 0 (xs.map Prod.fst))).sumsFinal K pl
      else s.sumsFinal K pl
    else s.startReduce K pl 0

/-! ### A frame meets its bucket -/

/-- A PHASE 0 frame of stage `k`: add it and pass it on or keep it (R299, R301). None: it does not fit. A frame on its way to
another owner passes also when this package, whose own part may be empty, is beyond the stage already. -/
def State.reduceFrame (s : State) (K : Nat) (pl : Plan) (k : Nat) (st : Stage) (f : Frame) : Option State :=
  let c := s.coord
  let b := s.bucket K
  let e0 := fld f.w2 63 32
  let fmt := pl.conv.fmt
  let blk := pl.conv.blk
  let part := if pl.ring then partOf 0 pl.count (pl.ranks c) e0 else pl.owner c k e0 st
  let mine := if pl.ring then part / pl.dies.length == pl.ringPos c else part == st.pos
  let r := if pl.ring then splitPart 0 pl.count (pl.ranks c) part else pl.ownerRange c k part st
  let n := min (frameElems fmt blk) (r.2 - e0)
  if e0 < r.1 || r.2 ≤ e0 || f.payload.length != payloadLen fmt blk n || (mine && b.stage != k) then none
  else
    let x := readPayload fmt blk n f.payload
    let sIn : List Int := x.2.map (fun (q : Nat) => Int.ofNat q - 127)
    if pl.ring then
      let m := pl.dies.length
      let base := pl.ringPos c * m
      let ys := (List.range n).map (fun j =>
        let acc := rne32 (wireVal fmt blk x j)
        ringCarry b pl base part (e0 + j) m base acc {})
      let s := s.countJob K pl (ys.foldl (fun n y => n.add y.2.2) {}) 0
      some (if ys.all (fun y => y.2.1) then s.modBucket K (fun b => b.finish e0 (ys.map Prod.fst))
        else s.sendSums K pl st f.last n e0 [] (ys.map Prod.fst))
    else
      let ys := (List.range n).map (fun j =>
        rne32 (Val.add (wireVal fmt blk x j) (f32Val (SMap.get 0 b.vals (e0 + j)))))
      some (if mine then s.modBucket K (fun b => b.finish e0 ys) else s.sendSums K pl st f.last n e0 sIn ys)

/-- A PHASE 1 frame of stage `k`: keep it and pass it on (R302). `up` is the direction it travels. -/
def State.gatherFrame (s : State) (K : Nat) (pl : Plan) (k : Nat) (st : Stage) (up : Bool) (f : Frame) : Option State :=
  let c := s.coord
  let e0 := fld f.w2 63 32
  let o := pl.owner c k e0 st
  let r := pl.ownerRange c k o st
  let n := min (frameElems pl.dst 0) (r.2 - e0)
  if e0 < r.1 || r.2 ≤ e0 || f.payload.length != elemBytes pl.dst n then none
  else
    let vs := (readPayload pl.dst 0 n f.payload).1.map (fun v => BitVec.ofNat 32 v)
    let dist := if up then (st.pos + st.n - o) % st.n else (o + st.n - st.pos) % st.n
    let s := s.modBucket K (fun b => b.finish e0 vs)
    some (if dist < gatherHops pl.ring st.n up then s.sendGather K pl st up f.last 1 e0 vs else s)

/-- A PHASE 2 frame of stage `k` of the closing exchange (R300; DESIGN CHOICE, log 32). -/
def State.closingFrame (s : State) (K : Nat) (pl : Plan) (k : Nat) (st : Stage) (f : Frame) : State :=
  let b := s.bucket K
  let h := fld f.w2 7 0
  if b.closing % 3 = 0 then
    let code := max b.code.toNat h
    let s := s.modBucket K (fun b => { b with code := BitVec.ofNat 8 code })
    let s := s.sendCode K pl st code
    if st.pos = 0 then s.enterClosing K pl (k + 1) else s.modBucket K (fun b => { b with closing := 3 * k + 1 })
  else
    let s := s.modBucket K (fun b => { b with code := BitVec.ofNat 8 h })
    let s := if st.pos + 1 = st.n then s else s.sendCode K pl st h
    s.enterClosing K pl (k + 1)

/-- What a frame of a bucket that has begun does: `none` while it is early, `some none` when it does not fit the entry (R297):
its RUN, its DIM, its PHASE or its elements. The direction of a gather frame follows from the port it came in by: a frame that came in on a − port travels up. -/
def State.meetFrame (s : State) (K : Nat) (pl : Plan) (p : Nat) (f : Frame) : Option (Option State) :=
  let c := s.coord
  let sts := pl.stages c
  let m := sts.length
  let b := s.bucket K
  if fld f.w1 27 20 ≠ pl.run then some none
  else match (List.range m).find? (fun k => (sts[k]?).any (fun st => st.dim == fld f.w1 19 18)) with
  | none => some none
  | some k =>
    match sts[k]? with
    | none => some none
    | some st =>
      match fld f.w1 17 16 with
      | 0 =>
        if pl.op = 2 ∨ pl.op = 3 then some none
        else if b.stage < k then none
        else some (s.reduceFrame K pl k st f)
      | 1 =>
        if pl.op = 0 ∨ pl.op = 3 then some none
        else if b.stage < 2 * m - 1 - k then none
        else if b.stage = 2 * m - 1 - k then some (s.gatherFrame K pl k st (pl.ring || s.role p % 2 == 0) f)
        else some none
      | 2 =>
        if pl.op = 2 then some none
        else if b.stage < m ∨ b.closing / 3 < k then none
        else if b.codeKnown ∨ k < b.closing / 3 then some none
        else some (some (s.closingFrame K pl k st f))
      | _ => some none

/-! ### Results (R302) -/

/-- The elements a die's DST receives: first index and encodings. -/
def Bucket.result (b : Bucket) (pl : Plan) (c : Coord) (d : Nat) : List (BitVec 32) :=
  let all := fun r => (elemsOf r).map (fun e => SMap.get 0 b.vals e)
  match pl.op with
  | 0 => (all (pl.dieRange c d)).map (fun v => BitVec.ofNat 32 (convertVal pl.dst 0 pl.conv.sat false 0 (f32Val v)).1)
  | 3 => []
  | _ => all (0, pl.count)

/-- Write the results of one member die's entry: the status it will complete with. The entry's own words say where and how
much it writes (R297, R305) (DEDUCED, log 79). A DST in curds of a region that has been fenced meanwhile is not written (R30). -/
def State.writeResult (s : State) (K : Nat) (e : BucketEntry) : State :=
  let pl := planOf e.desc
  let b := s.bucket K
  let vs := b.result pl s.coord e.die.val
  let bs := packElems pl.dst (vs.map BitVec.toNat)
  let counts := if pl.op = 0 then
      ((elemsOf (pl.dieRange s.coord e.die.val)).map (fun i =>
        (convertVal pl.dst 0 pl.conv.sat false 0 (f32Val (SMap.get 0 b.vals i))).2)).foldl ConvCount.add {}
    else {}
  let s := s.countJob K pl counts 0
  let r := if pl.op = 3 then (s, none)
    else if s.spanFenced e.die.val (dstSpan pl s.coord e.die.val e.desc) then (s, some Status.regionFenced)
    else if pl.dstVat then (s.storeVat e.die.val (e.desc.w28.toNat % 2 ^ 26) bs, none)
    else s.writeHbm (s.ownerOf e.queue) e.desc.w28.toNat bs
  r.1.modBucket K (fun b => { b with entries := b.entries.map (fun x =>
    if x.die = e.die then { x with formed := some (r.2.getD Status.ok) } else x) })

/-- Go on with a bucket as far as it can go: finished stages, early frames that now fit, results. -/
def State.advanceBucket (s : State) (K : Nat) (pl : Plan) : Nat → State
  | 0 => s
  | fuel + 1 =>
    let c := s.coord
    let m := (pl.stages c).length
    let b := s.bucket K
    if !b.ready || b.formed then s
    else if b.stage < m && b.allFin (pl.range c (b.stage + 1)) then
      let s := s.modBucket K (fun b => { b with stage := b.stage + 1, fin := [] })
      (if b.stage + 1 = m then s.sumsFinal K pl else s.startReduce K pl (b.stage + 1)).advanceBucket K pl fuel
    else if decide (m ≤ b.stage) && decide (b.stage < 2 * m) && b.allFin (pl.range c (2 * m - 1 - b.stage)) then
      let s := s.modBucket K (fun b => { b with stage := b.stage + 1 })
      (if b.stage + 1 = 2 * m then s else s.startGather K pl (2 * m - 2 - b.stage)).advanceBucket K pl fuel
    else
      match b.inbox.find? (fun x => (s.meetFrame K pl x.1 x.2).isSome) with
      | some x =>
        let s := s.modBucket K (fun b => { b with inbox := b.inbox.erase x })
        ((((s.meetFrame K pl x.1 x.2).getD none).getD (s.stale x.1))).advanceBucket K pl fuel
      | none =>
        if decide (2 * m ≤ b.stage) && b.codeKnown then
          b.entries.foldl (fun s e => s.writeResult K e) (s.modBucket K (fun b => { b with formed := true }))
        else s

/-- Enough steps for `advanceBucket`. -/
def State.goBucket (s : State) (K : Nat) (pl : Plan) : State :=
  s.advanceBucket K pl ((s.bucket K).inbox.length + 8)

/-! ### A job frame at its destination -/

/-- A job record as the device's counters see it: pending where there is one (R304). -/
def State.jobNow (s : State) (d j : Nat) : Job := let h := s.job (dkey d 4096 j); h.pend.getD h.com

/-- A bucket number within the window of 64 from NEXT_BUCKET, modulo 2^24 (R303). -/
def bucketAhead (next b : Nat) : Nat := (b + 2 ^ 24 - next) % 2 ^ 24

/-- The dies of this package that take part in a job of which no entry is at hand: those with a record of it; where none has one
yet, any die may (DEDUCED, log 131). -/
def State.jobMembers (s : State) (j : Nat) : List Nat :=
  let ds := dieIds.filter (fun d => s.job (dkey d 4096 j) != halves0 {})
  if ds.isEmpty then dieIds else ds

/-- A frame may belong to a bucket that no die has posted yet: RUN and BUCKET fit a die that takes part in the job. -/
def State.frameEarly (s : State) (f : Frame) : Bool :=
  (s.jobMembers (fld f.w1 63 52)).any (fun d =>
    let r := s.jobNow d (fld f.w1 63 52)
    r.run.toNat == fld f.w1 27 20 && decide (bucketAhead r.nextBucket.toNat (fld f.w1 51 28) < 64))

/-- A job frame whose DEST is this package (R297, R304). -/
def State.jobDeliver (s : State) (p : Nat) (f : Frame) : State :=
  let K := bucketKey (fld f.w1 63 52) (fld f.w1 51 28)
  let b := s.bucket K
  match b.entries.head? with
  | none => if s.frameEarly f then s.modBucket K (fun b => { b with inbox := b.inbox ++ [(p, f)] }) else s.stale p
  | some e =>
    let pl := planOf e.desc
    if pl.run ≠ fld f.w1 27 20 then s.stale p
    else if !b.ready then s.modBucket K (fun b => { b with inbox := b.inbox ++ [(p, f)] })
    else
      match s.meetFrame K pl p f with
      | none => s.modBucket K (fun b => { b with inbox := b.inbox ++ [(p, f)] })
      | some none => s.stale p
      | some (some t) => t.goBucket K pl

/-- A job frame that this package accepted: deliver it, or forward it toward DEST (R288). -/
def State.jobFrameIn (s : State) (p : Nat) (f : Frame) : State :=
  let dest := (fld f.w2 31 27, fld f.w2 26 22, fld f.w2 21 17)
  match routeRole s.coord dest with
  | none => s.jobDeliver p f
  | some r => match s.portOfRole r with
    | some q => s.sendOut q p (p / 2) f
    | none => s

end Sys2Proof.Machine
end

