-- ==== Sys2Proof/Machine/TurnOps.lean ====
section
/-! DEFINITION. The applied structure and its switch (R73, R88, R109, R120, R151, R171), drain points (R89), the flip
and the rollback (R88, R91), and what an accepted shard, absent or job frame does (R90 to R93, R291 to R293). -/

namespace Sys2Proof.Machine

/-! ### Applying records to a die -/

/-- The keys below a die's share of an array. -/
def inDie (per d k : Nat) : Bool := k / per == d

/-- Clear what a structure switch clears on a die: accumulators and their banks, chain slots, stationary records
(R109, R120, R151). -/
def State.clearEngines (s : State) (d : Nat) : State :=
  { s with
    acc := SMap.eraseIf (inDie (4 * 1024 * 512) d) s.acc
    banks := SMap.eraseIf (inDie 4 d) s.banks
    chains := SMap.eraseIf (inDie 64 d) s.chains }.modDie d (fun x => { x with statWest := none, statEast := none })

/-- GATE a block as the image does (R73). -/
def Block.gateOn (b : Block) : Block := { b with gate := true, gated := true, waking := false }
def Block.gateOff (b : Block) : Block := { b with gate := false, gated := false, waking := false }

/-- The array tiles and vector clusters of a region (R95, R28). -/
def regionBlocks (d : Nat) (h : Half) : List Nat :=
  (List.range 64).map (fun t => dkey d 134 (64 * h.num + t)) ++ [dkey d 134 (128 + 2 * h.num), dkey d 134 (129 + 2 * h.num)]

/-- ON of a region in an image. -/
def regionOnIn (im : Option Image) (d : Nat) (h : Half) : Bool :=
  match im with
  | some i => bitAt (i.pairRec d) h.num
  | none => false

/-- The gating that records bring (R73, R28): a region that is off is gated; one that the former records had off and
these have on is ungated (DEDUCED, log 29). -/
def State.gateRegion (s : State) (d : Nat) (h : Half) (old new : Option Image) : State :=
  if !regionOnIn new d h then (regionBlocks d h).foldl (fun s k => s.modBlock k Block.gateOn) s
  else if !regionOnIn old d h then (regionBlocks d h).foldl (fun s k => s.modBlock k Block.gateOff) s
  else s

/-- A pending source that the records in force leave unrouted loses its PENDING bit (R223). -/
def State.settlePending (s : State) : State :=
  { s with srcs := SMap.mapAll {} (fun k x => if (s.routeOfKey k).isSome then x else { x with pend := false }) s.srcs }

/-- Ports of a die whose role the records change train anew (R279); the others stay as they are. -/
def State.settleRoles (s : State) (d : Nat) (old : Nat → Nat) : State :=
  [2 * d, 2 * d + 1].foldl (fun s p => if s.role p = old p then s else s.settlePort p) s

/-- Apply an image's records to a die, or none of them (R85, R88). Curds whose tenant differs are zeroed (R88, R171),
except those of a fenced region, which keeps the records it had (R91). -/
def State.applyDie (s : State) (d : Nat) (im : Option Image) : State :=
  let old := (s.die d).image
  let keep := fun h => if (s.die d).regionFenced h then some (((s.die d).kept h).getD old) else none
  let roles := fun p => s.role p
  let s := allCurds.foldl (fun s c =>
    if Image.curdTenant old d c = Image.curdTenant im d c || (s.die d).regionFenced (halfOfCurd c) then s
    else s.zeroCurd d c) s
  let s := s.clearEngines d
  let s := s.modDie d (fun x => { x with image := im, keptWest := keep .west, keptEast := keep .east })
  let gate := fun s h => if (keep h).isSome then s else State.gateRegion s d h old im
  let s := gate (gate s .west) .east
  s.settleRoles d roles

/-- Apply records to every unfenced die: a die that is fenced, or in a reset of its own, takes no part (R88, R93). -/
def State.applyAll (s : State) (im : Option Image) : State :=
  let s := dieIds.foldl (fun s d => if (s.die d).fenced || (s.die d).bootStep != 0 then s else s.applyDie d im) s
  s.settlePending

/-- The image a KIND names: none for 0. -/
def Img.imageOf (x : Img) (kind : Nat) : Option Image := if kind = 0 then none else (x.slot kind).image

/-! ### Holding delivery in a switch (R223) -/

def State.holdSwitch (s : State) (on : Bool) : State :=
  dieIds.foldl (fun s d => s.modDie d (fun x => { x with switchHold := on && !x.fenced })) s

/-! ### Drain points (R89) -/

/-- A queue has its drain point at COMMITTED by itself: disabled, unbound, halted, or nothing started beyond COMMITTED. -/
def State.drainsHere (s : State) (Q : Nat) : Bool :=
  let q := s.queue Q
  !q.enable || !s.bound Q || q.halted || q.heldByPartner
  || (decide (q.done ≤ q.committed) && !q.entries.any (fun e => e.stat.isStarted))

/-- Give every queue its drain point: a group with a member that goes on takes its next commit entry (R89). -/
def State.setDrains (s : State) : State :=
  let runs := fun R => !s.drainsHere R
  let point := fun Q (q : Queue) =>
    if q.enable && (runs Q || (members s (groupOf s Q)).any runs) then DrainPoint.nextCommit q.committed else .here
  { s with queues := SMap.mapAll {} (fun Q q => { q with drain := point Q q }) s.queues }

/-- A queue has committed through its drain point or has halted (DEDUCED, log 85). -/
def Queue.drained (q : Queue) : Bool :=
  !q.enable || q.halted || (match q.drain with
    | .nextCommit c => q.committed != c
    | _ => true)

def State.allDrained (s : State) : Bool := s.queues.all (fun e => e.2.drained)

/-- Fetching goes on without drain points. -/
def State.endDrain (s : State) : State :=
  { s with queues := SMap.mapAll {} (fun _ q => { q with drain := .off }) s.queues }

/-! ### Accepted frames -/

/-- The flip (R88). -/
def State.flip (s : State) : State :=
  { s with img := { s.img with
      activeWeights := s.img.weightsNext, activeKind := s.img.target, turnCount := s.img.turnCount + 1
      turnState := .idle, tFlip := s.time.now } }.raise 0 srcTurnDone

/-- The flip once PRESENT equals EXPECTED in await (R88). -/
def State.tryFlip (s : State) : State :=
  if s.img.turnState = .await ∧ s.img.present.toNat = s.shardCount then s.flip else s

/-- A copy of a shard or absent frame with HOPS one less. -/
def onward (f : Frame) : Frame := { f with w1 := f.w1 - 0x1000000 }

/-- A shard or absent frame that arrived on port `p` meets the turn (R291, R292, R293). -/
def State.shardFrameIn (s : State) (p : Nat) (f : Frame) : State :=
  match s.img.turnState with
  | .drain => s.modPort p (fun x => { x with held := x.held ++ [f] })
  | .switch => s.modPort p (fun x => { x with held := x.held ++ [f] })
  | st =>
    if (st = .press ∨ st = .await) ∧ fld f.w1 63 40 = s.turnTag then
      let dist := fld f.w1 39 32
      let s :=
        if !s.keeps dist then s
        else if f.typ = 1 then s.storeShard p f
        else if fld f.w1 23 2 < s.shardCount then s.markAbsent (fld f.w1 23 2)
        else s.stale p
      let s := if 1 < fld f.w1 31 24 then s.distribute p (p / 2) dist (onward f) else s
      s.tryFlip
    else s.stale p

/-- A frame that flow control does not hold: by its type (R280, R284). Timestamp and control frames are never held. -/
def State.frameIn (s : State) (p : Nat) (f : Frame) : State :=
  if !carries (s.role p) f.typ.toNat then s.stale p
  else match f.typ.toNat with
    | 1 => s.shardFrameIn p f
    | 2 => s.shardFrameIn p f
    | 3 => s.jobFrameIn p f
    | _ => s

/-- The target image gives a port another role than the applied one: its frames are held during the switch (R88). -/
def State.roleChanging (s : State) (p : Nat) : Bool :=
  s.img.turnState == .switch && (match s.img.imageOf s.img.target.toNat with
    | some im => fld (im.portRec p) 60 57 != s.role p
    | none => false)

/-- A received frame leaves its buffer, which is to be returned to the peer (R285). -/
def State.freeBuffer (s : State) (p : Nat) (f : Frame) : State :=
  if f.typ = 0 then s else s.modPort p (fun x => { x with freed := SMap.modify 0 x.freed f.vc.toNat (· + 1) })

/-- Let go of those of the frames that flow control held which `which` names. -/
def State.releaseSome (s : State) (which : Frame → Bool) : State :=
  portIds.foldl (fun s p =>
    let fs := (s.port p).held
    (fs.filter which).foldl (fun s f => (s.freeBuffer p f).frameIn p f)
      (s.modPort p (fun x => { x with held := fs.filter (fun f => !which f) }))) s

/-- Let go of the frames that flow control held. -/
def State.releaseHeld (s : State) : State := s.releaseSome (fun _ => true)

/-! ### The turn ends without a flip -/

/-- Back to idle: no drain point is left, and frames that were held are discarded (R291) or go on. -/
def State.goIdle (s : State) : State :=
  ({ s with img := { s.img with turnState := .idle, abortWaiting := false, switchFenced := false } }.endDrain).releaseHeld

/-- FAILED with a code (R86, R91). -/
def State.turnFailed (s : State) (code : Code) : State :=
  { s with img := { s.img with turnCode := code } }.raise 0 srcTurnFailed

/-- A discard is in progress (R85). -/
def Img.discarding (x : Img) : Bool :=
  match x.work with
  | .discarding _ => true
  | _ => false

/-- Begin a rollback (R91): the press ends, MSI-X delivery is held. Shard and absent frames that the switch held are discarded
at once (R291); job frames wait for the roles of the source again (R88). -/
def State.rollback (s : State) (code : Code) : State :=
  ({ s with img := { s.img with turnState := .rollback, rollCode := code, abortWaiting := false, switchFenced := false } }.holdSwitch
    true).releaseSome (fun f => f.typ == 1 || f.typ == 2)

/-- End of a load or a discard: DONE with a code and FAIL_OFFSET (R81, R85). -/
def State.loadEnds (s : State) (code : Code) (off : Nat) : State :=
  { s with img := { s.img with loadCode := code, failOffset := BitVec.ofNat 32 off, work := .none } }.raise 0 srcImgDone

/-- Zero the map and the device's fields of the target table (R90, R293). -/
def State.clearMap (s : State) : State :=
  let n := s.shardCount
  let s := s.storeHbm s.img.mapBase.toNat (List.replicate ((n + 3) / 4) 0)
  let s := (List.range n).foldl (fun s i =>
    let w := (s.targetWord i 0).toNat
    let v := (s.targetWord i 1).toNat
    (s.setTargetWord i 0 (w - w % 64 / 32 * 32)).setTargetWord i 1 (v - v % 2 ^ 32)) s
  { s with img := { s.img with present := 0, absent := 0, copies := [] } }

end Sys2Proof.Machine
end

