-- ==== Sys2Proof/Machine/Records.lean ====
section
/-! DEFINITION. The recovery of the ledger at start-up step 6 (R204). -/

namespace Sys2Proof.Machine

/-! ### Recovery (R204) -/

/-- The committed number of a group on the die that is furthest. -/
def State.groupTop (s : State) (g : Nat) : Nat :=
  (dieIds.map (fun d => (s.group (gkey d g)).num)).foldl max 0

/-- A group record after recovery: rolled forward to a number that some die has committed, otherwise without its
prepared commit. -/
def GroupLed.recover (r : GroupLed) (top : Nat) : GroupLed :=
  match r.prep with
  | some p => if p.num ≤ top then
      { r with num := p.num, prep := none, kind := p.kind, tag := p.tag, banks := p.banks, dataPos := p.dataPos,
               replay := p.replay }
    else { r with prep := none }
  | none => r

/-- The groups that have a record on dies that restart. -/
def State.ledGroups (s : State) (d : Nat → Bool) : List Nat :=
  dedup ((s.groups.filter (fun e => d (e.1 / 8192))).map (fun e => e.1 % 8192))

/-- A group has a prepared commit that rolls forward. -/
def State.rollsForward (s : State) (g : Nat) : Bool :=
  dieIds.any (fun d => (s.group (gkey d g)).prep.any (fun p => decide (p.num ≤ s.groupTop g)))

/-- Recover one group on every member die: what has been committed anywhere is committed everywhere, what has not is
discarded everywhere. -/
def State.recoverGroup (s : State) (g : Nat) : State :=
  let top := s.groupTop g
  let t := dieIds.foldl (fun s d => s.modGroup (gkey d g) (fun r => r.recover top)) s
  if s.rollsForward g then t.commitHalves g true else t

/-- The CURRENT of each bank entry from the group record of the latest step commit. -/
def State.rewriteCurrent (s : State) : State :=
  let best := fun (b : Option GroupLed) (e : Nat × GroupLed) =>
    if e.2.num = 0 ∨ e.2.kind ≠ 2 then b
    else match b with
      | none => some e.2
      | some r => if r.time ≤ e.2.time then some e.2 else b
  match s.groups.foldl best none with
  | none => s
  | some r => (List.range 16).foldl (fun s i => s.modPbank i (fun x => { x with current := bitAt r.current i })) s

/-- ACCEPTED as the ledger gives it back: for a paired queue the lower of both sides' cursors (R206). -/
def State.ledgerAccepted (s : State) (Q : Nat) : Nat :=
  let q := s.queue Q
  if q.paired && !q.solo then min q.ledAcc (SMap.get 0 s.pair.acc Q) else q.ledAcc

/-- A queue as recovery leaves it: ACCEPTED and COMMITTED from the ledger, DONE at COMMITTED, nothing on the device. -/
def State.recoverQueue (s : State) (Q : Nat) : State :=
  let num := (s.group (s.groupKey Q)).num
  let acc := s.ledgerAccepted Q
  s.modQueue Q (fun q =>
    if q.enable then
      let c := q.ledgerCursor num
      -- the partner's cursor may still come to what the ledger holds (R206)
      { q.discardWork with committed := c, done := c, accepted := max c acc, ackWaiting := decide (max c acc < q.ledAcc) }
    else q)

/-- Recover a queue and rewrite its cursor block (R198; log 108). -/
def State.reloadQueue (s : State) (Q : Nat) : State :=
  if (s.queue Q).enable then (s.recoverQueue Q).writeCursors Q else s

/-- Recover the ledger of the dies that restart: groups first, then the records in halves, then the queues, then the resets
that waited for a commit (R201). -/
def State.recover (s : State) (d : Nat → Bool) (pkg : Bool) : State :=
  let gs := s.ledGroups d
  let s := (gs.foldl State.recoverGroup s).rewriteCurrent
  let s := s.mapHalves true d (fun _ => pkg) (fun h => h.drop)
  let Qs := (SMap.keys s.queues).filter (fun Q => d (dieOfQ Q))
  let s := Qs.foldl (fun s Q => s.undoBeyond Q 0) s
  let s := (Qs.foldl State.reloadQueue s).settleRefs
  gs.foldl State.settleWaiting s

end Sys2Proof.Machine
end

