-- ==== Sys2Proof/Machine/Reset.lean ====
section
/-! DEFINITION. Resets (R62 to R65, R93, R217) and the ends of start-up steps (R59, R60, R63, R83). -/

namespace Sys2Proof.Machine

/-! ### What resets clear -/

/-- A counter block back at its reset value (R40). -/
def State.clearBlocks (s : State) (p : Nat → Bool) : State := { s with blocks := SMap.eraseIf p s.blocks }

/-- Register counters that follow R40 and count what the Vat, the engines and HBM did (R137, R164, R189; log 33). -/
def Die.clearCounts (x : Die) : Die :=
  let z := fun (k : Stack) => { k with ceCount := 0, ueCount := 0 }
  { x with
    violCount := 0, vatCeCount := 0, integFail := 0, keyMissing := 0, satCount := 0, ovfCount := 0
    nonfiniteCount := 0, clampCount := 0, intSatCount := 0, updSkip := 0, updParams := 0, tokens := []
    mismatchCount := 0, tenantDrops := 0, stack0 := z x.stack0, stack1 := z x.stack1, stack2 := z x.stack2 }

/-- Clear the Vat and the accumulators of a die (R62, R109, R151, R166), its array-tile and vector-cluster blocks
(R40) and its counters. -/
def State.clearVat (s : State) (d : Nat) : State :=
  let s := s.clearEngines d
  let s := { s with
    vat := SMap.eraseIf (inDie (2 ^ 26) d) s.vat
    vatCond := SMap.eraseIf (inDie (2 ^ 23) d) s.vatCond }
  (s.clearBlocks (fun k => inDie 134 d k && decide (k % 134 < 132))).modDie d Die.clearCounts

/-- The entries of buckets in progress go with the queue state of their queues (R304). -/
def State.dropBuckets (s : State) (gone : BucketEntry → Bool) : State :=
  { s with buckets := SMap.mapAll {} (fun _ b =>
      if b.entries.any gone then b.without gone else b) s.buckets }

/-- Clear queue state on the device of queues (R62): entries, halts, DONE. -/
def State.clearQueues (s : State) (p : Nat → Queue → Bool) : State :=
  { s with queues := SMap.mapAll {} (fun Q q =>
      if p Q q then { q.discardWork with resetWaiting := false, disableWaiting := false } else q) s.queues }.settleHalted

/-- Clear interrupt state of a die: its own sources, its PF stack, its INT_PF_NEST (R217) (DEDUCED, log 91). -/
def State.clearInterrupts (s : State) (d : Nat) : State :=
  { s with srcs := SMap.eraseIf (inDie 16384 d) s.srcs }.modDie d (fun x => { x with pfStack := [], nest := {} })

/-- Clear the package sources: of those of PWR_RESET_CAUSE the flags and their counters are sticky, PENDING is not (R217). -/
def State.clearPkgInterrupts (s : State) : State :=
  { s with srcs := SMap.mapAll {} (fun k x =>
      if k / 16384 = 4 then (if k % 16384 < 0x1D09 then { x with pend := false } else {}) else x) s.srcs }

/-- Clear external port training (R62): the port starts anew; its lanes and REPLAY_LIMIT stay, and what it owes for lost
frames once it is up again (R287). -/
def State.clearPort (s : State) (p : Nat) : State :=
  (s.modPort p (fun x => {
    lanes := x.lanes, replayLimit := x.replayLimit, lostShards := x.lostShards, lostMarkers := x.lostMarkers
    state := if x.lanes = 0 then .absent else .down })).clearBlocks
    (fun k => k == dkey (p / 2) 134 (132 + p % 2))

/-- The Holds that a die takes part in and a restore that it has pending end with its reset, on every die (R318, R326). -/
def State.clearCkpt (s : State) (d : Nat) : State :=
  let s := (s.die d).holds.foldl (fun s h => s.endHold h.group) s
  match (s.die d).restoring with
  | some r => s.dropRestore r.group
  | none => s

/-- A reset that clears the core ends a turn and a discard (R65, R85, R93). A load in progress goes on, and the codes and
IMG_TURN_PROGRESS of R94 keep what they show (DESIGN CHOICE, log 109). -/
def State.endTurn (s : State) : State :=
  let work := match s.img.work with
    | .discarding _ => LoadWork.none
    | w => w
  ({ s with img := { s.img with turnState := .idle, abortWaiting := false, switchFenced := false, work := work } }.endDrain).allDies
    (fun x => { x with switchHold := false })

/-- Record a reset: the flag of its source and Thyme log event 0x000F (R62, R64, R227). -/
def State.resetCause (s : State) (i : Nat) : State :=
  let s := s.raise 0 (srcCause i)
  let bits := (List.range 9).foldl (fun a k => a + (if s.flagOf 0 (srcCause k) then 2 ^ k else 0)) 0
  s.postPkg 0x000F Status.ok bits (srcCause i)

/-! ### Where start-up goes on (R60, R64) -/

/-- A reset of package scope reruns start-up from `from`: together with a start-up that runs, from the earlier of the
two; after a failed start-up, only if it reruns the failed step. -/
def Power.rerun (x : Power) (start : Nat) : Power :=
  let k := if x.booting then min start x.bootFrom.toNat else start
  if x.bootFailed && decide (x.bootStep.toNat < start) then { x with ready := false }
  else
    { x with
      ready := false, booting := x.pwrgd, bootFailed := false, bootCode := 0, bootDie := 0
      bootFrom := BitVec.ofNat 3 k, bootStep := BitVec.ofNat 3 k }

/-- The step from which a reset of package scope restarts start-up: its own first one, or that of a die reset or of a Troroik's
rerun of step 2 that is in progress, if that is earlier (R64). -/
def State.restartAt (s : State) (start : Nat) : Nat :=
  dieIds.foldl (fun k d =>
    let b := (s.die d).bootStep
    if b = 0 then k else min k (if b = 2 then 2 else 4)) start

/-- What the device requests of the regulator where neither a hot junction nor the cap asks for less (R47, R50): VMAX_MV
from the end of start-up step 1. -/
def Power.settleRequest (x : Power) : Power :=
  if x.thermalHold then x
  else if x.capActive then
    { x with
      requestMv := if x.vmaxMv ≤ x.requestMv then x.vmaxMv else x.requestMv
      capActive := decide (x.requestMv < x.vmaxMv) }
  else if x.ready || decide (1 < x.bootStep.toNat) then { x with requestMv := x.vmaxMv }
  else x

/-- What every reset clears that reruns step 6 on the whole package and keeps HBM (R62): queue state, Vat,
accumulators, interrupt state; the turn, a discard, die resets in progress end. -/
def State.coreReset (s : State) : State :=
  let s := s.endTurn
  let s := ((s.clearQueues (fun _ _ => true)).dropBuckets (fun _ => true)).settleAllGates
  let s := dieIds.foldl (fun s d => (((s.clearVat d).clearInterrupts d).clearCkpt d)) s
  let s := s.clearPkgInterrupts
  s.allDies (fun x => { x with bootStep := 0, resetDue := false })

/-- HBM in service enters self-refresh at a reset that keeps it and reruns step 4 (R172; which resets: DEDUCED, log 118). -/
def HbmState.rest (x : HbmState) : HbmState := if x = .untrained then .untrained else .selfRefresh

/-- PERST_N, hot reset and package soft reset (R62): also fences, external ports and the host port, whose link the soft reset
leaves trained; the structure waits for step 6. PWR_CORE_RATE keeps what it shows (DESIGN CHOICE, log 110). -/
def State.busReset (s : State) (cause : Nat) (host : Bool) : State :=
  let start := s.restartAt 3
  let s := s.coreReset
  let s := portIds.foldl (fun s p => s.clearPort p) s
  let s := s.allDies (fun x => { x with
    fenced := false, fencedWest := false, fencedEast := false, d2dDown := 0, image := none, keptWest := none, keptEast := none
    hbm := x.hbm.rest })
  let s := { s with
    power := if host then { s.power with linkUp := false, linkDegraded := false, lost := s.power.hbmOff } else s.power
    -- IDE streams go down with the host port (PRESUMED, log 49)
    sec := { s.sec with ide := [] } }
  let s := { s with msix := [], power := { s.power with d3hot := [] }.rerun start }
  s.resetCause cause

/-- PF function level reset (R62): fences, ports, bypass set and the applied records stay; MSI-X tables go. -/
def State.pfReset (s : State) : State :=
  let start := s.restartAt 6
  let s := s.coreReset
  let s := { s with msix := [], power := { s.power with d3hot := s.power.d3hot.filter (fun f => f != 0) }.rerun start }
  s.resetCause 3

/-- A queue restarts from the committed cursor of the ledger (R62, R204): its state on the device and what its entries have
pending are discarded. -/
def State.restartQueue (s : State) (Q : Nat) : State :=
  ((s.dropBuckets (fun e => e.queue == Q)).undoBeyond Q 0).reloadQueue Q

/-- What a group has in progress ends with a reset of its members: a prepared commit that has not taken effect, a pending
restore, a Hold and a DRAIN (R204, R318, R326). -/
def State.endGroupWork (s : State) (g : Nat) : State :=
  ((((s.dropPrepared g).dropRestore g).endHold g).endDrains g).clearCkptMarks g

/-- VF function level reset (R62, R217): the VF's MSI-X table, its queues' state on the device, PENDING bits of sources
routed to it. The queues restart from their committed cursors. -/
def State.vfReset (s : State) (t : Nat) : State :=
  let routed := fun k => match s.routeOfKey k with
    | some r => !r.troroik && r.fn == t
    | none => false
  let s := s.setMsixOf t {}
  let s := { s with power := { s.power with d3hot := s.power.d3hot.filter (fun f => f != t) } }
  let s := { s with srcs := SMap.mapAll {} (fun k x => if routed k then { x with pend := false } else x) s.srcs }
  let Qs := (SMap.keys s.queues).filter (fun Q => (s.queue Q).owner == t)
  let gs := s.groupsOf (Qs.filter (fun Q => (s.queue Q).enable))
  let s := gs.foldl State.endGroupWork s
  let s := s.clearQueues (fun _ q => q.owner == t)
  let s := Qs.foldl State.restartQueue s
  (gs.foldl State.settleWaiting s).settleAllGates

/-- The rails other than VDD_AON (R67). -/
def coreRails : List Rail :=
  [.vddCore, .vddVat, .vppHbm, .vddcHbm, .vddqHbm, .vddaLnk, .vddhLnk, .vddaPcie, .vddIo]

/-- Power-on reset (R62, R64, R67): everything at its reset value except the sealed store (R338), the flash, the
pins and clocks, and the thermal trip while VDD_AON stayed in range (DEDUCED, log 97). The reset that the supply monitor
holds while a rail is out ends when the rails are back: one reset, whose SUPPLY_MON stays (DESIGN CHOICE, log 104). PWRGD
asserted while a rail is out stops start-up at step 1 (R57). -/
def State.porReset (s : State) (cause : PorCause) (aonKept : Bool) (feed : BitVec 8) : State :=
  let trip := s.power.tripLatch && aonKept
  let r : State := {}
  let rails := if cause = .rails then [] else s.power.railsOut
  let monitor := cause = .supplyMonitor ∨ (cause = .rails ∧ s.power.railsOut ≠ [] ∧ s.flagOf 0 (srcCause 6))
  let pin := s.power.tripPin && aonKept && !coreRails.all (fun x => s.power.railsOut.contains x)
  let pwrgd := s.power.pwrgd || cause = .pwrgdRise
  let fault := decide (cause = .pwrgdRise) && !rails.isEmpty
  let power : Power := { r.power with
    pwrgd := pwrgd, perst := s.power.perst, railsOut := rails, refA := s.power.refA, refB := s.power.refB
    linkRefOff := s.power.linkRefOff
    tripLatch := trip, tripPin := pin, feedId := feed, booting := pwrgd && rails.isEmpty, bootPor := true, bootFrom := 1
    bootStep := if pwrgd && rails.isEmpty || fault then 1 else 0
    bootFailed := fault, bootCode := if fault then Status.bootSupplyFault else 0 }
  let t : State := { r with
    pending := s.pending, host := s.host, msixOut := s.msixOut, troroikOut := s.troroikOut, free := s.free
    power := power
    store := s.store, stores := s.stores, flash := s.flash }
  let t := if monitor then t.raise 0 (srcCause 6) else t
  let t := if trip then t.raise 0 (srcCause 5) else t
  let bits := (List.range 9).foldl (fun a k => a + (if t.flagOf 0 (srcCause k) then 2 ^ k else 0)) 0
  t.postPkg 0x000F Status.ok bits (srcCause 0)

/-- POWER_ON_RESET. -/
def execPowerOnReset (cause : PorCause) (aonKept : Bool) (feed : BitVec 8) (s : State) : Res :=
  answer s (s.porReset cause aonKept feed)

/-- PERST_N asserted: the pin, and the reset. -/
def execPerstN (s : State) : Res :=
  answer s ((({ s with power := { s.power with perst := true } }).busReset 1 true))

/-- PERST_N deasserted (R54): host link training begins; HOST_LINK_TRAINED ends it. -/
def execPerstDeassert (s : State) : Res := answer s { s with power := { s.power with perst := false } }

def execHotReset (s : State) : Res := answer s (s.busReset 2 true)

/-- PKG_RESET in PWR_RESET_CTL (R62): the host link stays trained. -/
def execPkgReset (s : State) : Res := answer s (s.busReset 4 false)

def execPfFunctionLevelReset (s : State) : Res := answer s s.pfReset

def execVfFunctionLevelReset (vf : Fin 64) (s : State) : Res := answer s (s.vfReset (vf.val + 1))

/-- A die reset (R62, R63, R93): as PERST_N for that die; in a turn its queues count as drained and a switch fails
(DEDUCED, log 93). Authority over its paired queues passes to the partner (R209). A die kept out stays fenced (R63). -/
def State.dieReset (s : State) (d : Nat) : State :=
  let s := if (s.die d).fenced then s else (s.holdPaired (s.queuesOf d)).tellPartner
  let s := s.clearQueues (fun Q _ => dieOfQ Q == d)
  let s := { s with queues := SMap.mapAll {} (fun Q q => if dieOfQ Q = d ∧ q.drain ≠ DrainPoint.off then { q with drain := DrainPoint.here } else q) s.queues }
  let s := (s.dropBuckets (fun e => e.die.val == d)).noteFence
  let s := (s.clearVat d).clearCkpt d
  let s := [2 * d, 2 * d + 1].foldl (fun s p => (if (s.port p).state = PortState.up then s.leaveUp p PortState.down else s).clearPort p) s
  let s := (s.clearInterrupts d).settleAllGates
  let s := s.modDie d (fun x => { x with
    fenced := x.keptOut, fencedWest := false, fencedEast := false, d2dDown := 0, image := none, keptWest := none
    keptEast := none, switchHold := false, hbm := x.hbm.rest
    -- a start-up of the package that goes on at step 4 or before takes the die along; a Troroik's step 2 comes first (R64)
    bootStep := if s.power.booting then 0 else if x.bootStep = 2 then 2 else 4
    resetDue := !s.power.booting && x.bootStep == 2 })
  let s := dieIds.foldl (fun s e => s.modDie e (fun x => { x with d2dDown := x.d2dDown &&& ~~~((1 : BitVec 4) <<< d) })) s
  let s := if s.power.booting then { s with power := s.power.rerun 4 } else s
  s.resetCause 7

def execDieReset (d : DieId) (s : State) : Res := answer s (s.dieReset d.val)

/-- What the primary Troroik loses with its volatile state: its SPDM sessions, and a firmware update or an operation on the
image keys that it is carrying out (R62, R336, R337, R339) (DEDUCED, log 107). -/
def Sec.dropVolatile (x : Sec) : Sec := { x with spdm := [], fwBusy := false, fwSource := [], keyOp := .none }

/-- The Troroik watchdog (R62, R228): records that wait are dropped and counted, the Troroik reruns step 2, the die is
fenced until die reset. -/
def State.watchdog (s : State) (d : Nat) : State :=
  let waiting := (s.die d).logQueue
  let s := if s.primary = d then { s with sec := s.sec.dropVolatile } else s
  let s := s.modDie d (fun x => { x with logQueue := [], logDrops := ctrAdd x.logDrops waiting.length })
  let s := waiting.foldl (fun s _ => s.raise d srcLogDrop) s
  let s := { s with sec := { s.sec with alive := s.sec.alive &&& ~~~((1 : BitVec 4) <<< d) } }
  let s := s.fenceDie d 2
  let s := s.modDie d (fun x => if s.power.booting then x else
    { x with bootStep := 2, resetDue := x.resetDue || decide (4 ≤ x.bootStep.toNat) })
  let s := if s.power.booting then { s with power := s.power.rerun 2 } else s
  s.resetCause 8

def execTroroikWatchdog (d : DieId) (s : State) : Res := answer s (s.watchdog d.val)

/-! ### Start-up (R59) -/

/-- The minimum W of the fused bin (R1). -/
def minWidth : Nat := if Config.binA then 508 else 500

/-- How many bits of a mask are set. -/
def ones {n : Nat} (w : BitVec n) : Nat := ((List.range n).filter (fun i => bitAt w i)).length

/-- The code with which step 5 fails on a die (R59), if any. -/
def selfTestFailure (t : SelfTest) : Option Code :=
  if t.fault || decide (16 < t.lanes0.toNat + t.lanes1.toNat + t.lanes2.toNat + t.lanes3.toNat) then
    some Status.bootSelftestFail
  else if 512 - ones t.colsWest < minWidth || 512 - ones t.colsEast < minWidth then some Status.bootWidthBelowBin
  else none

/-- Start-up stops (R60). -/
def State.bootFails (s : State) (d : Nat) (code : Code) : State :=
  { s with power := { s.power with bootFailed := true, booting := false, bootCode := code, bootDie := BitVec.ofNat 2 d } }

/-- The codes of a step (R59). -/
def stepCodes : Nat → List Code
  | 1 => [Status.bootSupplyFault, Status.bootRefclkFail, Status.bootThermal]
  | 2 => [Status.bootFlashFail, Status.bootFwAuthFail]
  | 3 => [Status.bootD2dFail]
  | 4 => [Status.bootHbmFail]
  | 5 => [Status.bootSelftestFail, Status.bootWidthBelowBin]
  | _ => []

/-- Apply a bypass set and report it (R27, R59). It covers what kept a die out (R63). -/
def State.applyBypass (s : State) (d : Nat) (t : SelfTest) : State :=
  let s := s.modDie d (fun x => { x with
    keptOut := false
    colsWest := t.colsWest, colsEast := t.colsEast, wWest := 512 - ones t.colsWest, wEast := 512 - ones t.colsEast
    lanes0 := 256 - t.lanes0, lanes1 := 256 - t.lanes1, lanes2 := 256 - t.lanes2, lanes3 := 256 - t.lanes3
    lanesOff0 := t.lanes0, lanesOff1 := t.lanes1, lanesOff2 := t.lanes2, lanesOff3 := t.lanes3 })
  let s := s.modPort (2 * d) (fun x => { x with lanes := t.portLo })
  let s := s.modPort (2 * d + 1) (fun x => { x with lanes := t.portHi })
  [2 * d, 2 * d + 1].foldl (fun s p => s.modPort p (fun x => { x with state := s.restState p })) s

/-- A die has a stack that is lost. -/
def Die.anyLost (x : Die) : Bool := x.stack0.lost || x.stack1.lost || x.stack2.lost

/-- The snapshot slots at step 6 (R314): writing and receiving become empty, draining becomes sealed. -/
def State.settleSlots (s : State) (d : Nat → Bool) : State :=
  { s with ckpts := SMap.mapAll {} (fun k x =>
      if d (k / 3) then
        (if x.state = 1 ∨ x.state = 4 then { x with state := 0 } else if x.state = 3 then { x with state := 2 } else x)
      else x) s.ckpts }

/-- A Troroik runs the firmware copy that it booted (R335), and answers. -/
def State.bootTroroik (s : State) (d : Nat) : State :=
  match s.bootCopy d with
  | some c =>
    let s := s.modDie d (fun x => { x with firmware := c.1, copyB := c.2 })
    { s with sec := { s.sec with alive := s.sec.alive ||| ((1 : BitVec 4) <<< d) } }
  | none => s

/-- The next step of the package's start-up begins. -/
def State.nextStep (s : State) : State := { s with power := { s.power with bootStep := s.power.bootStep + 1 } }

/-- After a power-on reset Troroik creates tenant 0 with fresh keys at epoch 0 (R335). -/
def State.createFirst (s : State) : State :=
  if s.power.bootPor && (s.tenant 0).state != .active then
    let x := s.drawKeys
    x.2.setTenant 0 { state := .active, slot0 := some (KeySlot.fresh 0 x.1) }
  else s

/-- Start-up step 2 on the package (R59, R335, R338): the stores are read, every Troroik boots, tenant 0 is created. -/
def State.stepTwo (s : State) : State :=
  match s.loadStores with
  | none => s.bootFails 0 Status.bootFwAuthFail
  | some x =>
    let s := s.adoptStore x
    match dieIds.find? (fun d => (s.bootCopy d).isNone) with
    | some d => s.bootFails d Status.bootFwAuthFail
    | none => (dieIds.foldl State.bootTroroik s).createFirst.nextStep

/-- The end of step 4: after a power-on reset every page is zero and its tag too (R180), otherwise self-refresh ends. -/
def State.stepFour (s : State) : State :=
  let s := s.allDies (fun x => { x with hbm := .inService })
  if s.power.bootPor then { s with hbm := [], tags := [], hbmCond := [] }.nextStep
  else match dieIds.find? (fun d => (s.die d).anyLost) with
    | some d => s.bootFails d Status.bootHbmFail
    | none => s.nextStep

/-- Step 6 verifies a resident image again (R83), its digest first (the code of a digest that differs: DESIGN CHOICE,
log 123), and completes an erase (R85). -/
def State.reverifySlot (s : State) (kind : Nat) : State :=
  let sl := s.img.slot kind
  let s := { s with img := s.img.setSlot kind { sl with erasing := false } }
  match sl.image with
  | none => s
  | some im =>
    match (if im.digest = sl.digest then s.reverify im else some Status.imgSigFail) with
    | none => s
    | some code =>
      let s := { s with img := s.img.setSlot kind { code := code } }
      let s := if s.img.activeKind.toNat = kind then { s with img := { s.img with activeKind := 0, structKind := 0 } } else s
      s.raise 0 (srcDiscarded kind)

/-- The structure of step 6 (R83, R93): the image ACTIVE_KIND names, or none: also after a reset that met a first turn
between its switch and its flip. A package that never had one keeps its clusters ungated. -/
def State.reactivate (s : State) (hadActive : Bool) : State :=
  let had := hadActive || s.img.structKind != 0 || dieIds.any (fun d => (s.die d).image.isSome)
  let s := { s with img := { s.img with structKind := s.img.activeKind } }
  match s.img.imageOf s.img.activeKind.toNat with
  | some im => s.applyAll (some im)
  | none => if had then s.applyAll none else s

/-- Start-up step 6 on the whole package (R59, R83, R93, R204, R314). -/
def State.stepSix (s : State) : State :=
  let had := s.img.activeKind != 0
  let s := { s with time := { s.time with running := true } }
  let s := (s.reverifySlot 1).reverifySlot 2
  let s := s.reactivate had
  let s := (s.recover (fun _ => true) true).settleSlots (fun _ => true)
  { s with power := { s.power with ready := true, booting := false, bootPor := false } }

/-- The end of a step of the package's start-up on every die. -/
def State.packageStep (s : State) (r : StepResult) : State :=
  let k := s.power.bootStep.toNat
  if !s.power.booting then s
  else match r with
  | .fail d c => if (stepCodes k).contains c then s.bootFails d.val c else s
  | .selfTest ts =>
    if k = 5 ∧ ts.length = 4 then
      match (dieIds.filterMap (fun d => (ts[d]?).bind (fun t => (selfTestFailure t).map (fun c => (d, c))))).head? with
      | some x => s.bootFails x.1 x.2
      | none => (dieIds.foldl (fun s d => match ts[d]? with
          | some t => s.applyBypass d t
          | none => s) s).nextStep
    else s
  | .stacks _ => s
  | .ok =>
    match k with
    | 1 => let t := s.nextStep; { t with power := t.power.settleRequest }
    | 2 => s.stepTwo
    | 3 => s.nextStep
    | 4 => s.stepFour
    | 6 => s.stepSix
    | _ => s

/-- Step 6 of a die reset (R62, R93): the records of the image STRUCT_KIND names; its queues from the ledger. -/
def State.dieStepSix (s : State) (d : Nat) : State :=
  let s := s.modDie d (fun x => { x with bootStep := 0 })
  let s := (s.applyDie d (s.img.imageOf s.img.structKind.toNat)).settlePending
  (s.recover (fun e => e == d) false).settleSlots (fun e => e == d)

/-- A die that a reset could not bring back (R63): LOST of the failed stacks, and the fence with its cause. A fault that
self-test found, cause 4, keeps the die out. -/
def State.dieStays (s : State) (d cause : Nat) (failed : List StackId) : State :=
  let s := failed.foldl (fun s st => s.modDie d (fun x => x.modStack st.val (fun k => { k with lost := true }))) s
  (s.modDie d (fun x => { x with bootStep := 0, fenced := false, keptOut := x.keptOut || cause == 4 })).fenceDie d cause

/-- The end of a step of the start-up that a die reset runs (R62, R63). -/
def State.dieStep (s : State) (d : Nat) (r : StepResult) : State :=
  let x := s.die d
  let next := s.modDie d (fun x => { x with bootStep := x.bootStep + 1 })
  let inService := next.modDie d (fun x => { x with hbm := .inService })
  match x.bootStep.toNat, r with
  | 4, .ok => if x.anyLost then s.dieStays d 5 [] else inService
  | 4, .stacks failed => if failed.isEmpty && !x.anyLost then inService else s.dieStays d 5 failed
  | 5, .selfTest [t] =>
    if t.fault then s.dieStays d 4 []
    else if x.keptOut then s.modDie d (fun x => { x with bootStep := 0 })
    else [2 * d, 2 * d + 1].foldl (fun s p => s.modPort p (fun y => { y with state := s.restState p })) next
  | 6, .ok => s.dieStepSix d
  | _, _ => s

/-- The end of the step 2 that a Troroik reruns after its watchdog (R62): its die stays fenced. Where no copy of its firmware
or of a record of the store verifies it does not come back. -/
def State.troroikStep (s : State) (d : Nat) (r : StepResult) : State :=
  match (s.die d).bootStep.toNat, r with
  | 2, .ok =>
    match s.loadStores with
    | none => s
    | some y =>
      let s := s.adoptStore y
      if (s.bootCopy d).isNone then s
      else
      -- a die reset that came meanwhile goes on (R64)
      (s.bootTroroik d).modDie d (fun x => if x.resetDue then
          { x with bootStep := 4, resetDue := false, fenced := x.keptOut, fencedWest := false, fencedEast := false }
        else { x with bootStep := 0 })
  | _, _ => s

/-- The end of a step of a start-up. -/
def State.stepEnds (s : State) (sc : StartScope) (r : StepResult) : State :=
  match sc with
  | .package => s.packageStep r
  | .die d => s.dieStep d.val r
  | .troroik d => s.troroikStep d.val r

/-- STARTUP_STEP_END. Step 2 reads the stores and rewrites those that lag (R338). -/
def execStartupStepEnd (sc : StartScope) (r : StepResult) (s : State) : Res :=
  let t := s.stepEnds sc r
  answerWith s t t.store t.stores

/-- A configuration request completes with Request Retry Status until step 3 has ended (R54). -/
def Power.retries (x : Power) : Bool := decide (x.bootStep.toNat ≤ 3) && !x.ready

/-- A configuration request (R54). One that completes normally and writes the function's power state sets it: D3hot or D0
(R53, log 112). -/
def Power.configured (x : Power) (fn : Nat) (d3 : Option Bool) : Power :=
  if x.retries then { x with rrs := true }
  else
    let others := x.d3hot.filter (fun f => f != fn)
    { x with
      rrs := false
      d3hot := match d3 with
        | none => x.d3hot
        | some on => if on then fn :: others else others }

def execConfigRequest (r : ConfigReq) (s : State) : Res :=
  answer s { s with power := s.power.configured r.fn.val r.d3hot }

end Sys2Proof.Machine
end

