-- ==== Sys2Proof/Machine/Power.lean ====
section
/-! DEFINITION. Supplies, reference clocks, the host link, temperature, and the power cap (R26, R33, R45 to R54, R58,
R66, R67). -/

namespace Sys2Proof.Machine

/-! ### Supplies and clocks -/

/-- PWRGD falls (R58): doorbells are no longer acknowledged, and nothing more is written to HBM. -/
def execPwrgdFall (s : State) : Res :=
  answer s { s with power := { s.power with pwrgd := false, doorbellsOff := true, hbmOff := true } }

/-- A VDD_CORE droop (R46, R227): only between 0.58 V and 0.65 V and for no more than 50 µs. A droop below 0.58 V of no more
than 2 µs, for which the spec gives no response, does nothing (DESIGN CHOICE, log 111). -/
def State.droop (s : State) (lowestMv : BitVec 16) (durationNs : BitVec 32) : State :=
  if 580 ≤ lowestMv.toNat ∧ lowestMv.toNat < 650 ∧ durationNs.toNat ≤ 50000 then
    (s.raise 0 srcDroop).postPkg 0x0001 Status.ok (lowestMv.toNat * 2 ^ 48 + durationNs.toNat) srcDroop
  else s

def execCoreDroop (lowestMv : BitVec 16) (durationNs : BitVec 32) (s : State) : Res :=
  answer s (s.droop lowestMv durationNs)

/-- VDD_CORE stayed too low for too long (R46): the supply monitor triggers a power-on reset. -/
def execCoreUndervoltExpiry (feed : BitVec 8) (s : State) : Res := answer s (s.porReset PorCause.supplyMonitor true feed)

/-- A rail leaves its range (R45): the supply monitor holds power-on reset. A loss of VDD_AON loses the thermal trip
(R67), and the sticky registers go with it, PWR_STRAPS among them (R45). -/
def State.railOut (s : State) (rail : Rail) : State :=
  let rails := if s.power.railsOut.contains rail then s.power.railsOut else rail :: s.power.railsOut
  { s with power := { s.power with railsOut := rails } }.porReset PorCause.supplyMonitor (rail != Rail.vddAon)
    (if rail = Rail.vddAon then 0 else s.power.feedId)

def execRailOutOfRange (rail : Rail) (s : State) : Res := answer s (s.railOut rail)

/-- Both references are gone (R52): HBM access stops and the package counts as lost (R33). -/
def Power.refsLost (x : Power) : Power := { x with hbmOff := true, lost := true }

/-- SYS_REFCLK_A stops (R52). -/
def State.refALost (s : State) : State :=
  let was := s.power.refBActive
  let s := { s with power := { s.power with refA := false } }
  if was then s
  else if s.power.refB then
    { s with power := { s.power with refBActive := true } }.postPkg 0x0004 Status.ok 0 0
  else { s with power := s.power.refsLost }

def execRefclkALoss (s : State) : Res := answer s s.refALost

/-- SYS_REFCLK_B stops (R52): both references are lost once the device runs on it. -/
def State.refBLost (s : State) : State :=
  let s := { s with power := { s.power with refB := false } }
  if s.power.refBActive || !s.power.refA then { s with power := s.power.refsLost } else s

def execSysRefclkBLoss (s : State) : Res := answer s s.refBLost

/-- The host link goes down: the host port, and with it the package, counts as lost (R33, R51) (DEDUCED, log 94). -/
def Power.hostLost (x : Power) : Power := { x with linkUp := false, linkDegraded := false, lost := true }

def execPcieRefclkLoss (s : State) : Res := answer s { s with power := s.power.hostLost }

def execHostLinkDown (s : State) : Res := answer s { s with power := s.power.hostLost }

/-- Host link training ends (R53, R54). -/
def execHostLinkTrained (x16 gt64 : Bool) (s : State) : Res :=
  answer s { s with power := { s.power with linkUp := true, linkDegraded := !(x16 && gt64) } }

/-- A die's LNK_REFCLK stops (R51): its external ports go down. -/
def execLnkRefclkLoss (d : DieId) (s : State) : Res :=
  let s' := { s with power := { s.power with linkRefOff := s.power.linkRefOff ||| ((1 : BitVec 4) <<< d.val) } }
  answer s ((s'.settlePort (2 * d.val)).settlePort (2 * d.val + 1))

/-- A refresh of PWR_CORE_RATE (R26). -/
def execCoreRateRefresh (d : DieId) (mv mhz : BitVec 16) (s : State) : Res :=
  answer s (s.modDie d.val (fun x => { x with coreMv := mv, rateMhz := mhz }))

/-! ### Temperature (R66, R67) -/

/-- The hottest sensor: the first one of the highest reading (DESIGN CHOICE, log 35). -/
def hottest (rs : List (BitVec 8)) : Nat × Nat :=
  let m := (rs.map BitVec.toNat).foldl max 0
  ((rs.findIdx? (fun r => r.toNat == m)).getD 0, m)

/-- Hot: THERMAL_HIGH, 0.65 V, Thyme log event 0x0005, at every read that finds a sensor above 105 °C (log 35). -/
def State.thermalHigh (s : State) (sensor deg : Nat) : State :=
  { s with power := { s.power with thermalHold := true, requestMv := 650 } }.raise 0 srcThermalHigh
    |>.postPkg 0x0005 Status.ok (sensor * 256 + deg) srcThermalHigh

/-- Every sensor of the package reads below 100 °C. -/
def State.cool (s : State) : Bool := dieIds.all (fun d => decide ((s.die d).tjMax.toNat < 100))

/-- Release the voltage (R66): back to what the cap allows. -/
def State.thermalRelease (s : State) : State :=
  if s.power.thermalHold && s.cool then
    { s with power := { s.power with thermalHold := false }.settleRequest }
  else s

/-- The trip (R67): latched in AON state, THERMTRIP_N asserted, doorbells no longer acknowledged, the package lost. -/
def State.thermalTrip (s : State) : State :=
  { s with power := { s.power with tripLatch := true, tripPin := true, doorbellsOff := true, lost := true } }

/-- One read of a die's 16 sensors (R66). -/
def State.thermal (s : State) (d : Nat) (rs : List (BitVec 8)) : State :=
  let hot := hottest rs
  let low := (rs.map BitVec.toNat).foldl min 255
  let s := s.modDie d (fun x => { x with tjMax := BitVec.ofNat 8 hot.2, tjMin := BitVec.ofNat 8 low })
  let s := if 105 < hot.2 then s.thermalHigh hot.1 hot.2 else s.thermalRelease
  if 115 ≤ hot.2 then s.thermalTrip else s

def execThermalSample (d : DieId) (readings : Vector (BitVec 8) 16) (s : State) : Res :=
  answer s (s.thermal d.val readings.toList)

/-! ### The power cap (R47 to R50) -/

/-- One power measurement (R48): PKG_POWER_W averages the last 100, 1 ms of them, rounded down (log 36). -/
def Power.sample (x : Power) (watts : BitVec 16) : Power :=
  let ws := (watts :: x.samples).take 100
  { x with samples := ws, powerW := BitVec.ofNat 16 ((ws.map BitVec.toNat).sum / ws.length) }

def execPowerSample (watts : BitVec 16) (s : State) : Res := answer s { s with power := s.power.sample watts }

/-- One voltage step (R48): 5 mV down while the average lies above CAP_W, 5 mV up toward VMAX_MV once it is 5 % below
(the threshold of the step down is DEDUCED from the worked example, log 36). No step while the cap is not enforced
(R47) or a hot junction holds 0.65 V (R66). -/
def Power.voltage (x : Power) : Power :=
  let p := x.powerW.toNat
  let c := x.capW.toNat
  let v := x.requestMv.toNat
  let m := x.vmaxMv.toNat
  if !x.capOn || x.avsBad || x.thermalHold then x
  else if c < p ∧ 650 < v then
    { x with requestMv := BitVec.ofNat 10 (max 650 (v - 5)), capActive := true }
  else if 100 * p ≤ 95 * c ∧ v < m then
    { x with requestMv := BitVec.ofNat 10 (min m (v + 5)), capActive := decide (v + 5 < m) }
  else x

def execVoltageStep (s : State) : Res := answer s { s with power := s.power.voltage }

/-- The 1 ms average exceeds CAP_W + 2 %. -/
def Power.overCap (x : Power) : Bool := decide (102 * x.capW.toNat < 100 * x.powerW.toNat)

/-- The end of a 1 ms window (R47, R49): enforcement resumes after a fault; a window that misses the cap at 0.65 V sets
CAP_UNMET and is logged. -/
def State.capWindow (s : State) : State :=
  let s := if s.power.capResume then { s with power := { s.power with capOn := true, capResume := false } } else s
  if s.power.overCap && s.power.ackMv == 650 then
    (s.raise 0 srcCapUnmet).postPkg 0x0003 Status.ok s.power.powerW.toNat srcCapUnmet
  else s

def execCapWindowEnd (s : State) : Res := answer s s.capWindow

/-- The regulator acknowledges (R47): the core has the requested voltage; a fault ends, and the cap is enforced again
from the next 1 ms window. -/
def execAvsAck (s : State) : Res :=
  answer s { s with power := { s.power with
    ackMv := s.power.requestMv, avsBad := false, capResume := s.power.capResume || s.power.avsBad } }

/-- 100 µs without an acknowledgement (R47). -/
def State.avsTimeout (s : State) : State :=
  { s with power := { s.power with avsBad := true, capOn := false, capResume := false } }.raise 0 srcAvsFault
    |>.postPkg 0x0002 Status.ok s.power.ackMv.toNat srcAvsFault

def execAvsAckTimeout (s : State) : Res := answer s s.avsTimeout

/-- A retry that goes unacknowledged (R47); there is none outside a fault (log 8). -/
def State.avsRetried (s : State) : State :=
  if s.power.avsBad then (s.raise 0 srcAvsFault).raise 0 srcCapUnmet else s

def execAvsRetry (s : State) : Res := answer s s.avsRetried

/-- The nearest value within limits. -/
def clamp (lo hi v : Nat) : Nat := max lo (min hi v)

/-- A write of PWR_CAP (R50): each field stores the nearest limit; the request follows (R47). -/
def Power.writeCap (x : Power) (capW : BitVec 11) (vmaxMv : BitVec 10) : Power :=
  { x with
    capW := BitVec.ofNat 11 (clamp 600 1800 capW.toNat)
    vmaxMv := BitVec.ofNat 10 (clamp 650 850 vmaxMv.toNat) }.settleRequest

def execPwrCapWrite (capW : BitVec 11) (vmaxMv : BitVec 10) (s : State) : Res :=
  answer s { s with power := s.power.writeCap capW vmaxMv }

end Sys2Proof.Machine
end

