-- ==== Sys2Proof/Machine/Frames.lean ====
section
/-! DEFINITION. The link level of a port (R283 to R288): acceptance in order, acknowledgement and replay, credits, the
frame sent next, and what an accepted frame meets before its type acts. -/

namespace Sys2Proof.Machine

/-! ### The 512 bytes of a frame (R282 to R284) -/

/-- Header word 0. -/
def frameWord0 (f : Frame) (h : LinkHdr) : Word :=
  packWord [(h.lseq.toNat, 52), (h.ack.toNat, 40), (f.typ.toNat, 36), (f.vc.toNat, 34), (bnum f.dateline, 33), (f.tenant.toNat, 26),
    (f.epoch.toNat, 24), (f.payload.length, 15), (h.cvc.toNat, 13), (h.credits.toNat, 8), (bnum h.nak, 2), (bnum f.last, 1),
    (bnum f.raised, 0)]

/-- Bytes 0 to 503: the header, the payload, and zeros beyond LEN. -/
def frameBody (f : Frame) (h : LinkHdr) : List Byte :=
  leBytes 8 (frameWord0 f h).toNat ++ leBytes 8 f.w1.toNat ++ leBytes 8 f.w2.toNat ++ (f.payload ++ List.replicate (480 - f.payload.length) 0)

/-- The frame as it crosses the link, its CRC after its other bytes. -/
def frameBytes (f : Frame) (h : LinkHdr) : List Byte := frameBody f h ++ leBytes 8 (crc64 (frameBody f h)).toNat

/-- A sent frame's bytes. -/
def Sent.bytes (x : Sent) : List Byte := frameBytes x.frame x.hdr

/-! ### Replay (R286) -/

/-- Drop the acknowledged frames: those up to the one whose LSEQ is acknowledged, if it is among them. -/
def acked (ack : BitVec 12) (xs : List Sent) : List Sent :=
  match xs.findIdx? (fun x => x.hdr.lseq == ack) with
  | some i => xs.drop (i + 1)
  | none => xs

/-- Replay is exhausted: EXHAUSTED, and the port leaves up for training; the shards whose frames it loses are cut off (R90). -/
def State.exhaust (s : State) (p : Nat) : State :=
  let x := s.port p
  let s := (s.raise (p / 2) (srcPortExhausted p)).leaveUp p (s.restState p)
  (x.unacked.map Sent.frame ++ x.waiting.map Prod.snd).foldl State.shardCutOff s

/-- A frame waits that has been sent REPLAY_LIMIT + 1 times. -/
def Port.atLimit (x : Port) : Bool := x.unacked.any (fun u => decide (x.replayLimit.toNat < u.sends))

/-- Count replays in the port's counter block when EVENT_SEL selects them (R40, R41). -/
def State.countReplays (s : State) (p n : Nat) : State :=
  s.modBlock (dkey (p / 2) 134 (132 + p % 2)) (fun b =>
    if b.eventSel = 1 ∧ ¬ b.freeze then { b with event := ctrAdd b.event n } else b)

/-- Send again every frame after ACK, or exhaust replay. -/
def State.resendAll (s : State) (p : Nat) : State :=
  let x := s.port p
  if x.atLimit then s.exhaust p
  else
    (s.modPort p (fun x => { x with
      unacked := x.unacked.map (fun u => { u with sends := u.sends + 1 })
      replayCount := ctrAdd x.replayCount x.unacked.length })).countReplays p x.unacked.length

/-! ### Credits (R285) -/

/-- The class of a frame. -/
def frameClass (f : Frame) : Nat := bnum f.dateline
/-- The key of a VC and class. -/
def creditKey (vc cls : Nat) : Nat := vc * 2 + cls

/-- Take back the credits that a frame returns. CREDITS name no class: on a torus port the class is a free value
(log 1), elsewhere 0. -/
def State.takeCredits (s : State) (p : Nat) (h : LinkHdr) : State :=
  if h.credits = 0 then s
  else if s.role p ≤ 6 then
    let r := s.draw
    r.2.modPort p (fun x => { x with credit := SMap.modify 0 x.credit (creditKey h.cvc.toNat (fld r.1 0 0)) (· + h.credits.toNat) })
  else s.modPort p (fun x => { x with credit := SMap.modify 0 x.credit (creditKey h.cvc.toNat 0) (· + h.credits.toNat) })

/-! ### Receiving -/

/-- The link level of an arriving frame (R286): accepted only when its LSEQ is the one expected, otherwise discarded
and answered by one NAK. An accepted frame's ACK, CREDITS and NAK act. -/
def State.linkIn (s : State) (p : Nat) (h : LinkHdr) : State × Bool :=
  if h.lseq ≠ (s.port p).rxSeq then (s.modPort p (fun x => { x with nakDue := true }), false)
  else
    let s := s.modPort p (fun x => { x with rxSeq := x.rxSeq + 1, unacked := acked h.ack x.unacked })
    let s := s.takeCredits p h
    (if h.nak then s.resendAll p else s, true)

/-- VC matches TYPE, and for a job frame PHASE (R283, R285). -/
def vcFits (f : Frame) : Bool :=
  match f.typ.toNat with
  | 1 => f.vc == 1
  | 2 => f.vc == 1
  | 3 => if fld f.w1 17 16 = 0 then f.vc == 2 else f.vc == 3
  | _ => f.vc == 0

/-- A frame's own effect once the link level has accepted it (R280, R290, R291, R88): stale where the port does not
carry its type or its VC does not match it (DESIGN CHOICE, log 128); dropped where its tenant tag fails; held; or delivered by `f`. -/
def State.deliver (s : State) (p : Nat) (f : Frame) (go : State → State) : State :=
  if !carries (s.role p) f.typ.toNat || !vcFits f then (s.stale p).freeBuffer p f
  else if (f.typ = 1 ∨ f.typ = 2 ∨ f.typ = 3) ∧ s.tagFails f then (s.tenantDrop p f).freeBuffer p f
  else if ((f.typ = 1 ∨ f.typ = 2) ∧ (s.img.turnState = .drain ∨ s.img.turnState = .switch))
      ∨ (f.typ.toNat ≤ 3 ∧ s.roleChanging p) then
    s.modPort p (fun x => { x with held := x.held ++ [f] })
  else (go s).freeBuffer p f

/-- A frame arrives on a port. On a port that trains or is miswired it is stale (R280); a port that is absent, down or
gated receives nothing (DEDUCED, log 99). -/
def State.receive (s : State) (p : Nat) (h : LinkHdr) (f : Frame) (go : State → State) : State :=
  match (s.port p).state with
  | .up =>
    let r := s.linkIn p h
    if r.2 then r.1.deliver p f go else r.1
  | .training => s.stale p
  | .miswired => s.stale p
  | .absent => s
  | .down => s

/-! ### Sending (R283, R285, R286) -/

/-- The ingress ports and the local origin, from the one after `i` on (R285). -/
def ingressOrder (i : Nat) : List Nat := (List.range 9).map (fun k => (i + 1 + k) % 9)

/-- The frame that an ingress sends next on a VC, if the port holds credit for it. -/
def Port.head (x : Port) (vc ingress : Nat) : Option (Nat × Frame) :=
  match x.waiting.find? (fun w => w.1 == ingress && w.2.vc.toNat == vc) with
  | some w => if 0 < SMap.get 0 x.credit (creditKey vc (frameClass w.2)) then some w else none
  | none => none

/-- The frame that a VC sends next: its ingresses in round robin. -/
def Port.onVc (x : Port) (vc : Nat) : Option (Nat × Frame) :=
  (ingressOrder (SMap.get 8 x.lastIn vc)).findSome? (fun i => x.head vc i)

/-- VC 0 first, then VC 1 to 3 in round robin. -/
def vcOrder (lastVc : Nat) : List Nat := 0 :: (List.range 3).map (fun k => (lastVc + k) % 3 + 1)

/-- The frame that the port sends next. -/
def Port.next (x : Port) : Option (Nat × Frame) :=
  (vcOrder x.lastVc.toNat).findSome? (fun vc => x.onVc vc)

/-- An idle frame (R284). -/
def idleFrame : Frame :=
  { typ := 0, vc := 0, dateline := false, tenant := 0, epoch := 0, last := false, raised := false, w1 := 0, w2 := 0,
    payload := [] }

/-- The link-level fields of the frame that a port sends now (R283): LSEQ counts on, ACK is the last LSEQ received in order, up to
31 buffers of one VC are returned, and a NAK answers a frame that was lost (R286). -/
def Port.hdr (x : Port) : LinkHdr :=
  let back := x.freed.headD (0, 0)
  { lseq := x.txSeq, ack := x.rxSeq - 1, cvc := BitVec.ofNat 2 back.1, credits := BitVec.ofNat 5 (min 31 back.2), nak := x.nakDue }

/-- Keep a sent frame until it is acknowledged; what its header returned and answered is done with. -/
def Port.sent (x : Port) (f : Frame) : Port :=
  let freed := match x.freed with
    | [] => []
    | (vc, n) :: _ => SMap.set 0 x.freed vc (n - 31)
  { x with
    unacked := x.unacked ++ [{ hdr := x.hdr, sends := 1, frame := f }]
    txSeq := x.txSeq + 1
    freed := freed
    nakDue := false }

/-- Take a frame off the waiting frames and its credit away. -/
def Port.take (x : Port) (w : Nat × Frame) : Port :=
  let vc := w.2.vc.toNat
  { x with
    waiting := x.waiting.erase w
    credit := SMap.modify 0 x.credit (creditKey vc (frameClass w.2)) (· - 1)
    lastIn := SMap.set 8 x.lastIn vc w.1
    lastVc := if vc = 0 then x.lastVc else w.2.vc }

/-- The port can send: it is up, and its replay buffer of 512 frames is not full. -/
def Port.sends (x : Port) : Bool := x.state == .up && decide (x.unacked.length < 512)

/-- One handshake of a sending port: the next frame for which it holds credit, or an idle frame. -/
def Port.send (x : Port) : Port :=
  match x.next with
  | some w => (x.take w).sent w.2
  | none => x.sent idleFrame

end Sys2Proof.Machine
end

