-- ==== Sys2Proof/Machine/Time.lean ====
section
/-! DEFINITION. The time base (R37 to R39, R284), and what passes in a nanosecond in which no command waits. -/

namespace Sys2Proof.Machine

/-! ### Offsets (R37) -/

/-- The set neighbours: reached through ports that are up, their frames showing SET, with twice the offset that the last
exchange found and the neighbour's ROOT_OFFSET. -/
def State.setNeighbours (s : State) : List (Nat × Int × Int) :=
  portIds.filterMap (fun p =>
    let x := s.port p
    if x.state = .up ∧ x.partnerSet then x.offset.map (fun o => (p, o.1, o.2)) else none)

/-- The estimate of the offset from the time root, in ns rounded down: over the reference neighbour, the set neighbour
of the lowest port number; 0 on the root and without one. -/
def State.rootOffset (s : State) : Int :=
  if s.root then 0
  else match s.setNeighbours.head? with
    | some n => n.2.1 / 2 + n.2.2
    | none => 0

/-- OFFSET_NS: 32 bits in two's complement; where the estimate does not fit them the spec states no value (log 1). -/
def State.offsetNs (s : State) : BitVec 32 :=
  if -(2 ^ 31 : Int) ≤ s.rootOffset ∧ s.rootOffset < 2 ^ 31 then ofInt 32 s.rootOffset
  else (Config.freeWord s.free).truncate 32

/-- Above 1 µs, of twice an offset. -/
def farOff (o : Int) : Bool := decide (2000 < o.natAbs)

/-- ALIGNED (R38). -/
def State.aligned (s : State) : Bool := s.time.set && !s.setNeighbours.any (fun n => farOff n.2.1)

/-- Set the time base. What was recorded of frames under the former time base is dropped (DESIGN CHOICE, log 37). -/
def State.setTime (s : State) (v : Word) : State :=
  portIds.foldl (fun s p => s.modPort p (fun x => { x with peerSent := 0, peerArrival := 0, sentNs := [] }))
    { s with time := { s.time with now := v, set := true } }

/-- LOG_TIME_SET (R39): on a root whose time base has not been set. -/
def State.timeSet (s : State) (v : Word) : State := if s.root && !s.time.set then s.setTime v else s

def execLogTimeSet (v : Word) (s : State) : Res := answer s (s.whenReady (s.timeSet v))

/-! ### The exchange (R284) -/

/-- The timestamp frame that a port sends. -/
def State.stampFrame (s : State) (p : Nat) : Frame :=
  let x := s.port p
  let ro : BitVec 64 := if s.time.set then ofInt 64 s.rootOffset else 0
  { typ := 4, vc := 0, dateline := false, tenant := 0, epoch := 0, last := false, raised := false
    w1 := s.time.now, w2 := x.peerSent
    payload := leBytes 8 x.peerArrival.toNat ++ leBytes 8 ro.toNat
      ++ [BitVec.ofNat 8 (bnum s.time.set + 2 * bnum s.root)] ++ leBytes 7 0 }

/-- The ports that exchange timestamps: up, with a role that carries them. -/
def State.stampPorts (s : State) : List Nat := portIds.filter (fun p => (s.port p).state == .up && carries (s.role p) 4)

/-- Every 1 ms each such port sends a timestamp frame (R284). The root's first exchange, which sets its time base,
begins with the first frame it sends (R39; DEDUCED, log 38). -/
def State.sendStamps (s : State) : State :=
  let ps := s.stampPorts
  let s := if s.root && !s.time.set && !ps.isEmpty then { s with time := { s.time with set := true } } else s
  ps.foldl (fun s p => (s.sendOut p localOrigin (p / 2) (s.stampFrame p)).modPort p (fun x =>
    { x with sentNs := (s.time.now :: x.sentNs).take 4 })) s

def execTimestampSend (s : State) : Res := answer s s.sendStamps

/-- The reference neighbour's port: the set neighbour of the lowest port number. -/
def State.reference (s : State) : Option Nat := s.setNeighbours.head?.map Prod.fst

/-- Record an offset from a set neighbour: SKEW once per crossing above 1 µs. An exchange with the reference neighbour gives
the rate the offset to correct (R37). -/
def State.recordOffset (s : State) (p : Nat) (twice ro : Int) : State :=
  let was := match (s.port p).offset with
    | some o => farOff o.1
    | none => false
  let s := s.modPort p (fun x => { x with offset := some (twice, ro), partnerSet := true })
  let s := if s.reference = some p then { s with time := { s.time with slew := s.rootOffset } } else s
  if farOff twice && !was then
    (s.raise 0 srcSkew).postPkg 0x0006 Status.ok (ofInt 64 (twice / 2)).toNat srcSkew
  else s

/-- A timestamp frame that the port accepted: its times are kept for the answer; where it answers a frame sent under the
present time base and its sender is set, it ends an exchange, whose two-way offset it gives (DEDUCED, log 38). The first
one sets a time base that no root keeps (R37). -/
def State.stampIn (s : State) (p : Nat) (f : Frame) : State :=
  let now := s.time.now
  let x := s.port p
  let s := s.modPort p (fun x => { x with peerSent := f.w1, peerArrival := now })
  let isSet := bitAt (f.payload.getD 16 0) 0
  let s := if isSet then s else s.modPort p (fun x => { x with partnerSet := false })
  let answers := f.w2 != 0 && x.sentNs.contains f.w2 && f.payload.length == 24
  if !answers then s
  else
    let s := if s.root && !s.time.set then { s with time := { s.time with set := true } } else s
    if !isSet then s
    else
      let arrival := ofLe (f.payload.take 8)
      let ro := (BitVec.ofNat 64 (ofLe ((f.payload.drop 8).take 8))).toInt
      -- (T1 - T2) + (T4 - T3): twice how far this package is ahead
      let twice : Int := (f.w2.toNat : Int) - arrival + ((now.toNat : Int) - f.w1.toNat)
      if !s.root && !s.time.set then
        (s.setTime (ofInt 64 ((now.toNat : Int) - twice / 2))).recordOffset p 0 ro
      else s.recordOffset p twice ro

/-- TIMESTAMP_FRAME_RX. -/
def execTimestampFrameRx (p : PortId) (h : LinkHdr) (f : Frame) (s : State) : Res :=
  answer s (s.receive p.val h f (fun s => s.stampIn p.val f))

/-! ### A nanosecond without a command (log 6) -/

/-- GATED_NS of a block after `n` ns of the time base (R40, R41). -/
def Block.pass (n : Nat) (b : Block) : Block :=
  if b.gated && !b.freeze then { b with gatedNs := ctrAdd b.gatedNs n } else b

/-- A rate correction of at most 100 ppm moves the time base by 1 ns every 10,000 ns (R37). -/
def slewPeriod : Nat := 10000

/-- By how much the time base advances in a nanosecond, and what is left to correct: it is held back for a nanosecond, or runs
a nanosecond ahead, once in each period until the offset that the last exchange found is corrected; it never runs backwards
(R37). That the device corrects at the full rate is a DESIGN CHOICE (log 113). -/
def Time.advance (x : Time) : Time × Nat :=
  if x.slew = 0 then ({ x with now := x.now + 1, sinceSlew := 0 }, 1)
  else if x.sinceSlew + 1 < slewPeriod then ({ x with now := x.now + 1, sinceSlew := x.sinceSlew + 1 }, 1)
  else if 0 < x.slew then ({ x with slew := x.slew - 1, sinceSlew := 0 }, 0)
  else ({ x with now := x.now + 2, slew := x.slew + 1, sinceSlew := 0 }, 2)

/-- The time base runs from start-up step 6 while a reference clock is present (R37, R52). -/
def State.counts (s : State) : Bool := s.time.running && (s.power.refA || s.power.refB)

/-- What an error makes of a stored word or codeword: the first bad bit or byte can be corrected, a second one cannot. -/
def Cond.hit (c : Cond) (two : Bool) : Cond := if c = .sound ∧ two = false then .correctable else .uncorrectable

/-- Errors strike stored bits: which word of the Vat and which codeword of HBM in this nanosecond, if any, are free values
(R167, R185; DESIGN CHOICE, log 66). -/
def State.strike (s : State) : State :=
  let n := s.free
  let s := { s with free := n + 1 }
  let s := match Config.struckVat n with
    | some x => s.setVatCondAt x.1 ((s.vatCondAt x.1).hit x.2)
    | none => s
  match Config.struckHbm n with
  | some x => s.setHbmCondAt x.1 ((s.hbmCondAt x.1).hit x.2)
  | none => s

/-- A nanosecond passes: errors strike, the time base and GATED_NS count, and ELAPSED_US until start-up ends (R68). -/
def tick (s : State) : State :=
  let s := s.strike
  let s := if s.power.booting then { s with power := { s.power with elapsedNs := s.power.elapsedNs + 1 } } else s
  if s.counts then
    let t := s.time.advance
    { s with
      time := t.1
      blocks := SMap.mapAll {} (fun _ b => b.pass t.2) s.blocks }
  else s

end Sys2Proof.Machine
end

