-- ==== Sys2Proof/Machine/Clusters.lean ====
section
/-! DEFINITION. Power gating of clusters and their counter blocks (R28, R29, R40 to R42), and the faults that fence a
region or a die (R30, R32, R185 to R187). -/

namespace Sys2Proof.Machine

/-! ### GATE (R28, R29) -/

/-- GATE of an array tile or vector cluster: gating waits for the descriptor that uses it, ungating for the wake time. Until
that has passed the cluster counts as gated: a descriptor that needs it completes with ILLEGAL_IN_STATE (DESIGN CHOICE,
log 114). -/
def Block.setGate (b : Block) (on : Bool) : Block :=
  if on then { b with gate := true, waking := false }
  else { b with gate := false, waking := b.gated }

/-- GATE of a link port: at once, and the port goes down or trains anew. -/
def State.gatePort (s : State) (p : Nat) (on : Bool) : State :=
  let k := dkey (p / 2) 134 (132 + p % 2)
  if (s.block k).gate = on then s
  else (s.modBlock k (fun b => { b with gate := on, gated := on })).settlePort p

/-- A write of GATE. -/
def State.gateCluster (s : State) (c : Cluster) (on : Bool) : State :=
  match c with
  | .port d p => s.gatePort (2 * d.val + p.val) on
  | _ => (s.modBlock (clusterKey c) (fun b => b.setGate on)).settleGates (clusterDie c)

def execGate (c : Cluster) (on : Bool) (s : State) : Res := answer s (s.whenReady (s.gateCluster c on))

/-- The wake time of a cluster has passed (R28). -/
def Block.wake (b : Block) : Block := if b.waking then { b with gated := false, waking := false } else b

def execClusterWakeDone (c : Cluster) (s : State) : Res := answer s (s.modBlock (clusterKey c) Block.wake)

/-! ### Counters (R40 to R42) -/

def execFreeze (c : Cluster) (on : Bool) (s : State) : Res :=
  answer s (s.whenReady (s.modBlock (clusterKey c) (fun b => { b with freeze := on })))

/-- CLEAR sets all six counters of a block to zero. -/
def Block.clearCounters (b : Block) : Block :=
  { b with hs := 0, busyNs := 0, waitInNs := 0, waitOutNs := 0, gatedNs := 0, event := 0 }

def execClear (c : Cluster) (s : State) : Res :=
  answer s (s.whenReady (s.modBlock (clusterKey c) Block.clearCounters))

/-- The keys of every counter block of the package. -/
def allBlocks : List Nat := List.range (4 * 134)

/-- FREEZE of every block. -/
def State.freezeBlocks (s : State) (on : Bool) : State :=
  allBlocks.foldl (fun s k => s.modBlock k (fun b => { b with freeze := on })) s

/-- FREEZE_ALL (R42): every block stops, and the time base is recorded. -/
def execFreezeAll (s : State) : Res :=
  answer s (s.whenReady ({ s with time := { s.time with sample := s.time.now } }.freezeBlocks true))

def execRelease (s : State) : Res := answer s (s.whenReady (s.freezeBlocks false))

/-! ### Faults -/

/-- A handshake of a region has stayed pending for 10 µs (R30). -/
def execHandshakeTimeout (d : DieId) (h : Half) (s : State) : Res := answer s (s.fenceRegion d.val h 3)

/-- A parity error in accumulators or vector lanes (R30). -/
def execAccParityError (d : DieId) (h : Half) (s : State) : Res := answer s (s.fenceRegion d.val h 2)

/-- A Troroik that has not answered for 1 ms (R32): ALIVE, and the fence. -/
def execTroroikSilentTimeout (d : DieId) (s : State) : Res := answer s (({ s with sec := { s.sec with alive := s.sec.alive &&& ~~~((1 : BitVec 4) <<< d.val) } }).fenceDie d.val 2)

/-- A stack is lost (R187): LOST, and the die is fenced. -/
def execHbmCatastrophicError (d : DieId) (st : StackId) (_why : StackLoss) (s : State) : Res :=
  answer s ((s.modDie d.val (fun x => x.modStack st.val (fun k => { k with lost := true }))).fenceDie d.val 1)

/-- Pages of a stack, and the page positions of its metadata storage beyond them: 16 GiB (R173). -/
def stackPages : Nat := 2 ^ 25
def stackMeta : Nat := 2 ^ 22
/-- The package page `q` of a stack (R175). -/
def stackPage (d st q : Nat) : Nat := d * 2 ^ 28 + 3 * q + st

/-- A die's pass is complete once each of its stacks has been read to its end. -/
def Die.endPass (x : Die) (now : Word) : Die :=
  if x.stack0.scrubbed && x.stack1.scrubbed && x.stack2.scrubbed then
    { x with
      scrubNs := now
      stack0 := { x.stack0 with scrubbed := false }
      stack1 := { x.stack1 with scrubbed := false }
      stack2 := { x.stack2 with scrubbed := false } }
  else x

/-- One access of the patrol scrub (R186): the stack's next page, data first and then metadata, in which the spec describes no
errors. HBM in self-refresh is not scrubbed (R172). -/
def State.patrol (s : State) (d st : Nat) : State :=
  if s.power.hbmOff || ((s.die d).stack st).lost || (s.die d).hbm != .inService then s
  else
    let q := ((s.die d).stack st).scrubPos
    let s := if q < stackPages then (s.readCode (stackPage d st q)).1 else s
    let wrapped := q + 1 == stackPages + stackMeta
    s.modDie d (fun x => (x.modStack st (fun k =>
      { k with scrubPos := if wrapped then 0 else q + 1, scrubbed := k.scrubbed || wrapped })).endPass s.time.now)

def execPatrolScrubAccess (d : DieId) (st : StackId) (s : State) : Res := answer s (s.patrol d.val st.val)

/-- A refresh of HBM (R172) changes nothing that the state holds. -/
def execHbmRefresh (_d : DieId) (_st : StackId) (s : State) : Res := answer s s

end Sys2Proof.Machine
end

