-- ==== Sys2Proof/Machine/Queues.lean ====
section
/-! DEFINITION. Queues: doorbells and their acknowledgement (R195), fetch, start and completion of entries (R196 to
R199), RESUME_SKIP, QUEUE_RESET, ENABLE (R190, R192, R200, R201). -/

namespace Sys2Proof.Machine

/-! ### Access to a slot (R192) -/

/-- The function may write every field of a queue's slot: the function of OWNER. A VF's slot is occupied only while the
queue is bound to it. -/
def State.mayWrite (s : State) (Q : Nat) (fn : Fn) : Bool :=
  fn.val == (s.queue Q).owner && (fn == 0 || s.bound Q)

/-- The function may write QUE_CTL: besides, the PF for every queue. -/
def State.mayControl (s : State) (Q : Nat) (fn : Fn) : Bool := fn == 0 || s.mayWrite Q fn

/-! ### Doorbells (R195) -/

/-- The greatest sequence number. -/
def seqMax : Nat := 2 ^ 48 - 1

/-- Doorbells are heard: READY, the package not lost (R33), and none of the stops of R52, R58 and R67. -/
def State.hearsDoorbells (s : State) : Bool :=
  s.power.ready && !s.power.lost && !s.power.doorbellsOff

/-- Ask for the partner's answer where the queue works jointly (R206). -/
def State.tellIfPaired (s : State) (Q : Nat) : State :=
  if (s.queue Q).paired && !(s.queue Q).solo then s.tellPartner else s

/-- The address of a queue's slot in the BAR0 of a function (R192). -/
def slotOf (fn : Fn) (Q : Nat) : Nat := if fn = 0 then dieOfQ Q * 2 ^ 24 + 0x400000 + Q % 1024 * 256 else Q * 256

/-- A write arrived inside an established IDE stream that covers a queue's slot: Link IDE, or a Selective IDE stream whose
address association, in the BAR0 of the function, does (R342). -/
def State.ideCovers (s : State) (ide : Option IdeStream) (fn : Fn) (Q : Nat) : Bool :=
  s.sec.ide.any (fun i => some i.stream == ide && (match i.range with
    | some (f, lo, hi) => i.stream == .link
        || (f == fn.val && decide (lo.toNat ≤ slotOf fn Q) && decide (slotOf fn Q + 255 ≤ hi.toNat))
    | none => false))

/-- A write of TAIL_SEQ, judged against the queue's cursors (R195): the ledger write and the acknowledgement are to come. A
doorbell that follows another before the ledger write is done shares it: the greater TAIL_SEQ stands. `ide` names the IDE stream
inside which the write arrived, if any (DEDUCED, log 74). -/
def State.ring (s : State) (Q : Nat) (fn : Fn) (tail : Nat) (ide : Option IdeStream) : State :=
  let q := s.queue Q
  if !q.enable || !s.hearsDoorbells || (s.ideRequired && !s.ideCovers ide fn Q) || !s.mayWrite Q fn then s
  else if q.accepted = seqMax then s.raise (dieOfQ Q) (srcOverrun Q)
  else if tail ≤ q.accepted then s
  else if q.committed + 2 ^ q.log2 < tail then s.raise (dieOfQ Q) (srcOverrun Q)
  else
    (s.modQueue Q (fun q => { q with tail := max q.tail tail, ackWaiting := true })).tellIfPaired Q

def execDoorbell (d : DieId) (q : QId) (fn : Fn) (tail : BitVec 48) (ide : Option IdeStream) (s : State) : Res :=
  answer s (s.ring (qnum d q) fn tail.toNat ide)

/-- The acknowledgement (R195, R206): the ledger write is done; a paired queue takes the lower of both sides' cursors. None
is given once doorbells are no longer heard, or HBM is out of reach (R33, R52, R58, R67). -/
def State.acknowledge (s : State) (Q : Nat) : State :=
  if (s.queue Q).ackWaiting && s.hearsDoorbells && !s.power.hbmOff then
    let s := s.modQueue Q (fun q => { q with ledAcc := max q.ledAcc q.tail, tail := 0 })
    let a := s.ledgerAccepted Q
    (s.modQueue Q (fun q => { q with
      accepted := max q.accepted a, ackWaiting := decide (max q.accepted a < q.ledAcc) })).writeCursors Q
  else s

def execDoorbellAck (d : DieId) (q : QId) (s : State) : Res := answer s (s.acknowledge (qnum d q))

/-! ### Fetch (R87, R89, R197) -/

/-- The descriptor in the ring slot of a sequence number (R191). -/
def State.ringEntry (s : State) (Q seq : Nat) : Desc :=
  let q := s.queue Q
  descOfBytes (s.readArea q.owner q.ringBase (64 * (seq % 2 ^ q.log2)) 64)

/-- The sequence number fetched next. -/
def Queue.nextSeq (q : Queue) : Nat := ((q.entries.getLast?).map Entry.seq).getD q.done + 1

/-- The first entry that has not started. -/
def Queue.firstFetched (q : Queue) : Option Entry := q.entries.find? (fun e => e.stat == .fetched)

/-- In a drain, an entry lies at or below its queue's drain point: nothing before it on the device is the commit entry
that makes the point (R89). A queue that was given none, since it was disabled then, stops at once. -/
def Queue.belowDrain (q : Queue) (seq : Nat) : Bool :=
  match q.drain with
  | .off => false
  | .here => false
  | .nextCommit c => q.committed == c && !q.entries.any (fun e => e.desc.cls == 5 && decide (e.seq < seq))

/-- The queue may fetch or start the entry: enabled, bound, running, its die in service, and the turn allows it (R87,
R197). -/
def State.queueRuns (s : State) (Q seq : Nat) : Bool :=
  let q := s.queue Q
  let x := s.die (dieOfQ Q)
  s.queueState Q == 1 && s.power.ready && !s.power.hbmOff && !x.fenced && x.bootStep == 0
  && !q.resetWaiting && !q.disableWaiting
  && (s.img.turnState == .idle || (s.img.turnState == .drain && q.belowDrain seq))

/-- Fetch the next entry: at most 16 ahead of the first one not yet started (R197). -/
def State.fetchEntry (s : State) (Q : Nat) : State :=
  let q := s.queue Q
  let n := q.nextSeq
  let first := (q.firstFetched.map Entry.seq).getD n
  if s.queueRuns Q n && decide (n ≤ q.accepted) && decide (n ≤ first + 16) then
    s.modQueue Q (fun q => { q with entries := q.entries ++ [{ seq := n, desc := s.ringEntry Q n, stat := .fetched }] })
  else s

def execEntryFetch (d : DieId) (q : QId) (s : State) : Res := answer s (s.fetchEntry (qnum d q))

/-! ### Start (R193, R196, R197, R267, R351) -/

/-- The tenant of a queue is being removed (R351). -/
def State.ownerRemoving (s : State) (Q : Nat) : Bool :=
  (s.queue Q).owner != 0 && (s.tenant (s.queue Q).owner).state == .removing

/-- The code with which an entry fails before it starts, if any. A commit entry that breaks R193 counts as started and
fails its group (R203). -/
def State.startFailure (s : State) (Q : Nat) (e : Entry) : Option Code :=
  if s.ownerRemoving Q then some Status.tenantRevoked
  else if e.desc.seq ≠ e.seq then some Status.seqMismatch
  else if e.desc.cls ≠ 5 ∧ e.desc.badHeader then some Status.descFieldRange
  else if e.desc.waitOn ∧ (s.queue e.desc.waitQueue).owner ≠ (s.queue Q).owner then some Status.illegalInState
  else none

/-- The wait of an entry is over: the queue waited on has come to WAIT_SEQ and is not halted at or below it. -/
def State.waitOver (s : State) (x : Desc) : Bool :=
  !x.waitOn || (let w := s.queue x.waitQueue
    decide (x.waitSeq ≤ w.done) && !(w.halted && decide (w.haltSeq ≤ x.waitSeq)))

/-- A commit of a group has started on a member queue and has neither taken effect nor failed (R267). -/
def State.commitStarted (s : State) (g : Nat) : Bool := (s.commitEntries g).any (fun e => !s.inEffect e.1 e.2)

/-- A Hold of a group is in progress (R317). -/
def State.held (s : State) (g : Nat) : Bool := dieIds.any (fun d => (s.holdOf g d).isSome)

/-- An entry may start now. Commit and checkpoint entries start only after every earlier entry has completed (R197,
R315). -/
def State.mayStart (s : State) (Q : Nat) (e : Entry) : Bool :=
  s.waitOver e.desc
  && (!(e.desc.fence || e.desc.cls == 5 || e.desc.cls == 8) || e.seq == (s.queue Q).done + 1)
  && !(e.desc.cls == 9 && s.commitStarted (groupOf s Q))
  && !s.held (groupOf s Q)

/-! ### Engine grants (R112, R144, R197) -/

/-- The lane set that a vector descriptor needs is free: one occupies its clusters from grant to completion (R144). -/
def State.lanesFree (s : State) (Q : Nat) (x : Desc) : Bool :=
  let ks := (s.engines Q x).filter (fun k => k == 2 || k == 3)
  (s.startedOn (dieOfQ Q)).all (fun f => !meets ks (s.engines f.1 f.2.desc))

/-- The entry with which a queue is ready for an engine: its first one not started, but for the grant free to start. -/
def State.readyEntry (s : State) (Q : Nat) : Option Entry :=
  match (s.queue Q).firstFetched with
  | some e =>
    if s.queueRuns Q e.seq && (s.startFailure Q e).isNone && s.mayStart Q e && s.lanesFree Q e.desc then some e else none
  | none => none

/-- The engines choose queue `Q` before queue `R`: by PRIORITY, 0 the highest, and round-robin within a class, whose turn falls
to the queue with the oldest last grant, of two without a grant to the lower number (R112) (DESIGN CHOICE, log 138). -/
def State.chosenBefore (s : State) (Q R : Nat) : Bool :=
  let p := (s.bind Q).priority
  let r := (s.bind R).priority
  let m := SMap.get 0 s.lastGrant Q
  let n := SMap.get 0 s.lastGrant R
  decide (p < r) || (p == r && (decide (m < n) || (m == n && decide (Q ≤ R))))

/-- Every engine that an entry needs grants it: its queue is the choice among those that are ready for one of them. -/
def State.granted (s : State) (Q : Nat) (e : Entry) : Bool :=
  s.lanesFree Q e.desc && (s.queuesOf (dieOfQ Q)).all (fun R => match s.readyEntry R with
    | some f => !meets (s.engines Q e.desc) (s.engines R f.desc) || s.chosenBefore Q R
    | none => true)

/-- An entry as its engine grants it: numbered, with copies of its chain slot, its stream slot and its tenant's transport key
(R151, R264, R349). -/
def State.grantOf (s : State) (Q : Nat) (e : Entry) : Entry :=
  { e with
    stat := .started
    grant := s.grants
    chain := if e.desc.cls = 2 then some (s.chain (dkey (dieOfQ Q) 64 e.desc.chainSlot)) else none
    stream := if e.desc.cls = 2 ∨ e.desc.cls = 4 then some (s.streamSeen (dieOfQ Q) (groupOf s Q) e.desc.streamSlot) else none
    transport := if e.desc.cls = 10 then (s.tenant (s.ownerOf Q)).transport else none }

/-- Replace an entry on the device. -/
def Queue.setEntry (q : Queue) (e : Entry) : Queue :=
  { q with entries := q.entries.map (fun f => if f.seq = e.seq then e else f) }

/-- Start an entry that needs no engine, or that its engines grant. -/
def State.grant (s : State) (Q : Nat) (e : Entry) : State :=
  let t := s.modQueue Q (fun q => q.setEntry (s.grantOf Q e))
  { t with
    grants := s.grants + 1
    lastGrant := if (s.engines Q e.desc).isEmpty then s.lastGrant else SMap.set 0 s.lastGrant Q (s.grants + 1) }

/-- Start the first entry that has not started, if it may start and its engines grant it (R197). -/
def State.startEntry (s : State) (Q : Nat) : State :=
  match (s.queue Q).firstFetched with
  | some e =>
    if s.queueRuns Q e.seq then
      match s.startFailure Q e with
      | some c => (s.closeEntry Q e c).settleGates (dieOfQ Q)
      | none => if s.mayStart Q e && s.granted Q e then s.grant Q e else s
    else s
  | none => s

def execEntryStart (d : DieId) (q : QId) (s : State) : Res := answer s (s.startEntry (qnum d q))

/-! ### Completion (R198, R199) -/

/-- Complete an entry whose engine has ended: in sequence order, but a status other than OK halts at once. -/
def State.completeEntry (s : State) (Q seq : Nat) : State :=
  match (s.queue Q).entry seq with
  | some e => match e.stat with
    | .ended c =>
      if c ≠ Status.ok ∨ seq = (s.queue Q).done + 1 then
        ((s.closeEntry Q e c).closeReady Q (s.queue Q).entries.length).settleGates (dieOfQ Q)
      else s
    | _ => s
  | none => s

def execEntryComplete (d : DieId) (q : QId) (seq : BitVec 48) (s : State) : Res :=
  answer s (s.completeEntry (qnum d q) seq.toNat)

/-- NO_OPERATION (R194). -/
def noOpStatus (x : Desc) : Code :=
  if x.w10 = 0 ∧ x.w18 = 0 ∧ x.w20 = 0 ∧ x.w28 = 0 ∧ x.w30 = 0 ∧ x.w38 = 0 then Status.ok else Status.descFieldRange

def execNoOperation (d : DieId) (q : QId) (seq : BitVec 48) (s : State) : Res :=
  answer s (runEntry s d q seq (fun x => x.cls == 0) (fun s _ x => (s, some (noOpStatus x))))

/-! ### RESUME_SKIP, QUEUE_RESET, ENABLE (R190, R192, R200, R201) -/

/-- RESUME_SKIP (R200): the queue runs on; QUE_HALT keeps what it shows. Paired queues that side 1 holds halted stay so (R206)
(DEDUCED, log 82). -/
def State.resume (s : State) (Q : Nat) (fn : Fn) : State :=
  let q := s.queue Q
  if s.mayControl Q fn && q.halted && !(s.pair.halted && q.paired) then
    (s.modQueue Q (fun q => { q with halted := false })).writeCursors Q
  else s

def execResumeSkip (d : DieId) (q : QId) (fn : Fn) (s : State) : Res := answer s (s.whenReady (s.resume (qnum d q) fn))

/-- QUEUE_RESET: it waits for a prepared commit (R201). -/
def State.queueReset (s : State) (Q : Nat) (fn : Fn) : State :=
  if s.mayControl Q fn then
    if s.preparedFor Q then s.modQueue Q (fun q => { q with resetWaiting := true }) else s.resetQueue Q
  else s

def execQueueReset (d : DieId) (q : QId) (fn : Fn) (s : State) : Res :=
  answer s (s.whenReady (s.queueReset (qnum d q) fn))

/-- The fields of QUE_RING_CFG that are writable while ENABLE is 0 (R211). -/
def Queue.config (q : Queue) (v : Word) : Queue :=
  { q with cgroup := BitVec.ofNat 8 (fld v 23 16), paired := bitAt v 7, log2 := max 6 (min 22 (fld v 4 0)) }

/-- A write of QUE_RING_CFG with ENABLE = 1 (R190, R192). OWNER becomes the tenant bound at that moment; the ledger's
cursor slot is tagged with its group's committed number (R204). -/
def State.enableQueue (s : State) (Q : Nat) (fn : Fn) (v : Word) : State :=
  if !s.mayWrite Q fn || (s.queue Q).enable then s
  else
    let s := s.modQueue Q (fun q => q.config v)
    match s.binding Q with
    | none => s
    | some b =>
      if (s.queue Q).paired && (s.portOfRole 7).isNone then s
      else
        let num := (s.group (s.groupKey Q)).num
        s.modQueue Q (fun q => { q with enable := true, owner := b.tenant, cur0 := 0, tag0 := some num, cur1 := 0, tag1 := none })

def execQueueEnable (d : DieId) (q : QId) (fn : Fn) (v : Word) (s : State) : Res :=
  answer s (s.whenReady (s.enableQueue (qnum d q) fn v))

/-- A write of QUE_RING_CFG with ENABLE = 0 (R192, R201). -/
def State.queueDisable (s : State) (Q : Nat) (fn : Fn) (v : Word) : State :=
  if !s.mayWrite Q fn then s
  else if (s.queue Q).enable then
    if s.preparedFor Q then s.modQueue Q (fun q => { q with disableWaiting := true }) else s.disableQueue Q
  else s.modQueue Q (fun q => q.config v)

def execQueueDisable (d : DieId) (q : QId) (fn : Fn) (v : Word) (s : State) : Res :=
  answer s (s.whenReady (s.queueDisable (qnum d q) fn v))

end Sys2Proof.Machine
end

