-- ==== Sys2Proof/Machine/Array.lean ====
section
/-! DEFINITION. The matrix array (R95 to R120): products of one half-array, of the ganged pair, and of the gradient pair,
with NF2 emulation (R140, R141). -/

namespace Sys2Proof.Machine

/-! ### The descriptor (R118) -/

/-- The fields of an array descriptor. -/
structure ArrayDesc where
  op : Nat
  half : Half
  halfBit : Bool
  a : Tensor
  b : Tensor
  x : Tensor
  transA : Bool
  transB : Bool
  transX : Bool
  acc : Bool
  bank : Nat
  release : Bool
  reuse : Bool
  wgrad : Bool
  swap : Bool
  nf2 : Bool
  mask : Nat
  m : Nat
  k : Nat
  n : Nat
  row0 : Nat
  row0X : Nat
  accX : Bool
  bankX : Nat
  releaseX : Bool
  rsv : Bool
  xZero : Bool
  deriving DecidableEq, Repr

def halfOf (east : Bool) : Half := if east then .east else .west

def arrayOf (d : Desc) : ArrayDesc :=
  { op := fld d.w10 63 61, half := halfOf (bitAt d.w10 60), halfBit := bitAt d.w10 60
    a := { addr := fld d.w20 63 38, scale := fld d.w20 37 12, fmt := fld d.w10 59 56, blk := fld d.w10 51 49,
           stride := fld d.w30 63 48, phase := fld d.w18 20 14 }
    b := { addr := fld d.w28 63 38, scale := fld d.w28 37 12, fmt := fld d.w10 55 52, blk := fld d.w10 48 46,
           stride := fld d.w30 47 32, phase := fld d.w18 13 7 }
    x := { addr := fld d.w38 63 38, scale := fld d.w38 37 12, fmt := fld d.w38 11 8, blk := fld d.w38 7 5,
           stride := fld d.w30 31 16, phase := fld d.w18 6 0 }
    transA := bitAt d.w10 45, transB := bitAt d.w10 44, transX := bitAt d.w38 4
    acc := bitAt d.w10 43, bank := fld d.w10 42 42, release := bitAt d.w10 41, reuse := bitAt d.w10 40
    wgrad := bitAt d.w10 39, swap := bitAt d.w10 38, nf2 := bitAt d.w10 37, mask := fld d.w10 31 16
    m := fld d.w18 63 53, k := fld d.w18 52 42, n := fld d.w18 41 31, row0 := fld d.w18 30 21
    row0X := fld d.w30 15 6, accX := bitAt d.w38 3, bankX := fld d.w38 2 2, releaseX := bitAt d.w38 1
    rsv := fld d.w10 36 32 != 0 || fld d.w10 15 0 != 0 || fld d.w20 11 0 != 0 || fld d.w28 11 0 != 0
      || fld d.w30 5 0 != 0 || bitAt d.w38 0
    xZero := fld d.w18 6 0 == 0 && fld d.w30 31 6 == 0 && d.w38 == 0 }

/-- The half that forms the input gradient (R116). -/
def ArrayDesc.gradHalf (x : ArrayDesc) : Half := halfOf x.swap

/-- The half-arrays a descriptor uses. -/
def ArrayDesc.halves (x : ArrayDesc) : List Half := if x.op = 0 then [x.half] else [.west, .east]

/-- The halves whose cells hold B: its stationary records (R120). -/
def ArrayDesc.bHalves (x : ArrayDesc) : List Half :=
  match x.op with
  | 0 => [x.half]
  | 1 => [.west, .east]
  | _ => [x.gradHalf]

/-! ### Operand classes (R102) -/

def is4 (fmt : Nat) : Bool := fmt == 7 || fmt == 9
/-- The pair is admitted: integers with integers, binary32 with binary32. -/
def pairOk (f g : Nat) : Bool := isInt f == isInt g && (f == 0) == (g == 0)
/-- K_cap of a pair. -/
def kCap (f g : Nat) : Nat := if is4 f && is4 g then 1024 else 512

/-! ### Checks (R119) -/

/-- The stored rows of A, of B and of X, and elements per row. -/
def ArrayDesc.aShape (x : ArrayDesc) : Nat × Nat := if x.transA then (x.k, x.m) else (x.m, x.k)
def ArrayDesc.bShape (x : ArrayDesc) : Nat × Nat := if x.transB then (x.n, x.k) else (x.k, x.n)
def ArrayDesc.xShape (x : ArrayDesc) : Nat × Nat := (x.m, x.n)

/-- What the descriptor reads: B not where the loaded tile is reused. -/
def ArrayDesc.spans (x : ArrayDesc) : List Span :=
  x.a.spans x.aShape.1 x.aShape.2 false
  ++ (if x.reuse then [] else x.b.spans x.bShape.1 x.bShape.2 false)
  ++ (if x.wgrad then x.x.spans x.xShape.1 x.xShape.2 false else [])

/-- The width in use: of the half named, of both halves, or of the input-gradient half. -/
def State.arrayWidth (s : State) (d : Nat) (x : ArrayDesc) : Nat :=
  match x.op with
  | 0 => (s.die d).width x.half
  | 1 => (s.die d).width .west + (s.die d).width .east
  | _ => (s.die d).width x.gradHalf

/-- NF2 emulation does not admit the descriptor (R140). -/
def ArrayDesc.nf2Bad (x : ArrayDesc) : Bool :=
  x.nf2 && (!nf2Fmt x.a.fmt || !nf2Fmt x.b.fmt || !(x.a.blk == 0 || x.a.blk == 2) || !(x.b.blk == 0 || x.b.blk == 2)
    || x.op == 2)

/-- OP 2 breaks R116 (DEDUCED, log 87). -/
def ArrayDesc.gradBad (x : ArrayDesc) (wOther : Nat) : Bool :=
  isInt x.a.fmt || x.a.fmt == 0 || decide (wOther < x.k)
  || (x.wgrad && (!x.transX || !pairOk x.x.fmt x.a.fmt || x.x.bad x.n || decide (kCap x.x.fmt x.a.fmt < x.m)
      || decide (1024 < x.n + x.row0X)))

/-- Check 1. Under OP 0 and OP 1, which use no X, its fields must be zero as under WGRAD = 0 (DESIGN CHOICE, log 127). -/
def State.arrayBad (s : State) (d : Nat) (x : ArrayDesc) : Bool :=
  x.rsv || decide (2 < x.op) || (x.op != 0 && x.halfBit) || (x.op == 2 && x.transA)
  || (x.op != 2 && (x.wgrad || x.swap)) || (!x.wgrad && !x.xZero)
  || x.m == 0 || decide (1024 < x.m) || x.k == 0 || decide (1024 < x.k) || x.n == 0 || decide (1024 < x.n)
  || x.a.bad x.aShape.2 || x.b.bad x.bShape.2 || !pairOk x.a.fmt x.b.fmt
  || decide (kCap x.a.fmt x.b.fmt < x.k) || decide (s.arrayWidth d x < x.n) || decide (1024 < x.m + x.row0)
  || x.nf2Bad || (x.op == 2 && x.gradBad ((s.die d).width x.gradHalf.other))
  || !(x.a.spans x.aShape.1 x.aShape.2 false ++ x.b.spans x.bShape.1 x.bShape.2 false
        ++ (if x.wgrad then x.x.spans x.xShape.1 x.xShape.2 false else [])).all Span.inVat

/-- The queue's REGION and the MODE admit the operation (R98). -/
def State.arrayAllowed (s : State) (d Q : Nat) (x : ArrayDesc) : Bool :=
  let r := (s.bind Q).region
  match s.mode d with
  | 0 => x.op == 0 && (r == 2 || r == x.half.num)
  | 1 => x.op == 1 && r == 2
  | _ => (x.op == 0 && r == x.half.num) || (x.op == 2 && r == 2)

/-- The keys of the array tiles of a half (R95). -/
def tileKeys (d : Nat) (h : Half) : List Nat := (List.range 64).map (fun t => dkey d 134 (64 * h.num + t))

/-- A tile of a half is gated (R101). -/
def State.tileGated (s : State) (d : Nat) (h : Half) : Bool := (tileKeys d h).any (fun k => (s.block k).gated)

/-- The record of a half admits REUSE_B (R120). -/
def ArrayDesc.reuses (x : ArrayDesc) (t : Nat) : Option Stationary → Bool
  | none => false
  | some r => r.tenant == t && r.addr.toNat == x.b.addr && r.scale.toNat == x.b.scale && r.stride.toNat == x.b.stride
    && r.fmt.toNat == x.b.fmt && r.blk.toNat == x.b.blk && r.phase.toNat == x.b.phase && r.trans == x.transB
    && r.k == x.k && r.n == x.n && (x.op != 2 || r.role == some x.swap)

/-- The accumulator banks a descriptor writes, with ACC of each. -/
def ArrayDesc.banks (x : ArrayDesc) (d : Nat) : List (Nat × Bool) :=
  match x.op with
  | 0 => [(bkey d x.half x.bank, x.acc)]
  | 1 => [(bkey d .west x.bank, x.acc), (bkey d .east x.bank, x.acc)]
  | _ => (bkey d x.gradHalf x.bank, x.acc) :: (if x.wgrad then [(bkey d x.gradHalf.other x.bankX, x.accX)] else [])

/-- A bank's tag forbids ACC (R111). -/
def Bank.forbids (b : Bank) (tag : Nat × Bool) (acc : Bool) : Bool := acc && b.tag.isSome && b.tag != some tag

/-- Check 2. -/
def State.arrayIllegal (s : State) (d Q : Nat) (x : ArrayDesc) : Bool :=
  let t := s.ownerOf Q
  let on := fun (y : Tensor) => s.fmtOn d y.fmt && s.blkOn d y.blk
  !s.arrayAllowed d Q x || !on x.a || !on x.b || (x.wgrad && !on x.x) || (x.nf2 && !s.nf2On d)
  || x.halves.any (fun h => s.tileGated d h)
  || (x.banks d).any (fun b => (s.bank b.1).forbids (t, isInt x.a.fmt) b.2)
  || (x.reuse && x.bHalves.any (fun h => !x.reuses t ((s.die d).stat h)))

/-- A half used, or a curd read, lies in a fenced region (check 4). -/
def State.arrayFenced (s : State) (d : Nat) (x : ArrayDesc) : Bool :=
  x.halves.any (fun h => s.fencedAt d h) || s.spanFenced d x.spans

/-! ### Sums down a column (R105 to R108, R141) -/

/-- The parts of an operand in a pass (R108): whole, high, low. -/
inductive Part where
  | whole
  | hi
  | lo
  deriving DecidableEq, Repr

/-- The part of an element that a pass feeds, before its scale. -/
def partVal (fmt : Nat) (p : Part) (code : Nat) : Val :=
  let v := decodeElem fmt code
  match p with
  | .whole => v
  | .hi => if v.isFin then decodeElem fmt (code / 4096 * 4096) else v
  | .lo => if v.isFin then v.add (decodeElem fmt (code / 4096 * 4096)).neg else .fin 0 0

/-- daz of R141: a subnormal operand reads as zero. -/
def daz (fmt : Nat) (v : Val) : Val :=
  match v with
  | .fin m e => if !isInt fmt && m != 0 && decide (topExp m.natAbs e < (fmtOf fmt).emin) then .fin 0 0 else v
  | _ => v

/-- An operand as a pass feeds it (R105). -/
def operand (fmt : Nat) (nf2 : Bool) (p : Part) (e : Nat × Nat) : Val :=
  if isInt fmt then decodeElem fmt e.1
  else
    let v := partVal fmt p e.1
    scaled (if nf2 then daz fmt v else v) e.2

/-- ftz of R141. -/
def ftz (nf2 : Bool) (w : F32) : F32 := if nf2 && fld w 30 23 == 0 then 0 else w

/-- One product: streamed rows, contraction length, output columns, formats, mask, ACC, and the elements of both
operands by row and contraction index, and by contraction index and column. -/
structure Product where
  rows : Nat
  k : Nat
  cols : Nat
  fmtS : Nat
  fmtT : Nat
  nf2 : Bool
  mask : Nat
  acc : Bool
  a : Nat → Nat → Nat × Nat
  b : Nat → Nat → Nat × Nat

/-- Contraction indices of one summation step: a segment, or with NF2 a group of 16 physical rows. -/
def Product.step (p : Product) : Nat := if p.nf2 then 16 else if is4 p.fmtS && is4 p.fmtT then 64 else 32
/-- The number of steps, and the segment of a step. -/
def Product.steps (p : Product) : Nat := if p.nf2 then 32 else 16
def Product.segment (p : Product) (g : Nat) : Nat := if p.nf2 then g / 2 else g

/-- The contraction indices of a step that are fed (R100). -/
def Product.fed (p : Product) (g : Nat) : List Nat :=
  if p.mask.testBit (p.segment g) then []
  else ((List.range p.step).map (fun i => g * p.step + i)).filter (fun r => decide (r < p.k))

/-- All contraction indices fed, ascending. -/
def Product.allFed (p : Product) : List Nat := (List.range p.steps).flatMap p.fed

/-- The exact sum of the products of some rows for one output element. -/
def Product.sum (p : Product) (pa pb : Part) (m n : Nat) (rs : List Nat) : Val :=
  rs.foldl (fun v r => v.add ((operand p.fmtS p.nf2 pa (p.a m r)).mul (operand p.fmtT p.nf2 pb (p.b r n)))) (.fin 0 0)

/-- run of R106 and R141. -/
def Product.run (p : Product) (pa pb : Part) (m n : Nat) : F32 :=
  (List.range p.steps).foldl (fun run g =>
    let rs := p.fed g
    if rs.isEmpty then run
    else ftz p.nf2 (rne32 ((f32Val run).add (f32Val (ftz p.nf2 (rne32 (p.sum pa pb m n rs))))))) 0

/-- The passes of a class (R108, R141). -/
def Product.passes (p : Product) : List (Part × Part) :=
  if p.fmtS = 0 then
    if p.nf2 then [(.hi, .hi), (.lo, .hi), (.hi, .lo)] else [(.hi, .hi), (.lo, .hi), (.hi, .lo), (.lo, .lo)]
  else [(.whole, .whole)]

/-- An entry and the flags it set: INT_SAT, NAN_OUT, INF_OUT. -/
structure EntryOut where
  val : BitVec 32
  intSat : Bool := false
  nan : Bool := false
  inf : Bool := false
  deriving DecidableEq, Repr

def f32IsInf (w : F32) : Bool := fld w 30 0 == 0x7F800000

/-- Every operand of an output element is finite. -/
def Product.finite (p : Product) (m n : Nat) : Bool :=
  p.allFed.all (fun r => (operand p.fmtS false .whole (p.a m r)).isFin && (operand p.fmtT false .whole (p.b r n)).isFin)

/-- One pass on an entry (DEDUCED, log 50). -/
def Product.pass (p : Product) (m n : Nat) (acc : Bool) (o : EntryOut) (ps : Part × Part) : EntryOut :=
  let run := p.run ps.1 ps.2 m n
  let v := if acc then ftz p.nf2 (rne32 ((f32Val o.val).add (f32Val run))) else run
  { o with
    val := v
    nan := o.nan || f32IsNan v
    inf := o.inf || (f32IsInf v && p.finite m n && (!acc || (f32Val o.val).isFin)) }

/-- The passes after the first accumulate. -/
def Product.floatEntry (p : Product) (m n : Nat) (old : BitVec 32) : EntryOut :=
  match p.passes with
  | [] => { val := old }
  | q :: qs => qs.foldl (fun o x => p.pass m n true o x) (p.pass m n p.acc { val := old } q)

/-- An integer entry (R107). -/
def Product.intEntry (p : Product) (m n : Nat) (old : BitVec 32) : EntryOut :=
  let sum : Int := match p.sum .whole .whole m n p.allFed with
    | .fin v e => v * pow2 e
    | _ => 0
  let v := (if p.acc then old.toInt else 0) + sum
  if 2147483647 < v then { val := ofInt 32 2147483647, intSat := true }
  else if v < -2147483648 then { val := ofInt 32 (-2147483648), intSat := true }
  else { val := ofInt 32 v }

def Product.entry (p : Product) (m n : Nat) (old : BitVec 32) : EntryOut :=
  if isInt p.fmtS then p.intEntry m n old else p.floatEntry m n old

/-! ### Banks (R109 to R111) -/

/-- Make a bank ready for a descriptor: a foreign tag is zeroed away, the descriptor's tag is set. -/
def State.prepBank (s : State) (bk : Nat) (tag : Nat × Bool) (acc : Bool) : State :=
  let s := if !acc && (s.bank bk).tag.isSome && (s.bank bk).tag != some tag then
      { s with acc := SMap.eraseIf (fun k => k / (1024 * 512) == bk) s.acc }
    else s
  s.modBank bk (fun b => { b with tag := some tag })

/-- Flags that a descriptor has set: INT_SAT, NAN_OUT, INF_OUT. -/
abbrev ArrFlags := Bool × Bool × Bool

/-- Form one entry and write it. -/
def Product.write (p : Product) (s : State) (place : Nat → Nat × Nat) (row0 m n : Nat) (f : ArrFlags) : State × ArrFlags :=
  let key := akey (place n).1 (row0 + m) (place n).2
  let o := p.entry m n (s.accEntry key)
  (s.setAccEntry key o.val, (f.1 || o.intSat, f.2.1 || o.nan, f.2.2 || o.inf))

/-- Write the entries of some columns of a product: rows from `row0`, column `n` at `place n`. -/
def Product.writeAll (p : Product) (s : State) (place : Nat → Nat × Nat) (row0 : Nat) (cols : List Nat) : State × ArrFlags :=
  (List.range p.rows).foldl (fun r m =>
    cols.foldl (fun r n => p.write r.1 place row0 m n r.2) r) (s, (false, false, false))

/-- The events of a half: each flag once per descriptor (R121, R215). -/
def State.arrayEvents (s : State) (d : Nat) (h : Half) (f : ArrFlags) : State :=
  ((s.raiseIf f.1 d (srcArray h 0)).raiseIf f.2.1 d (srcArray h 1)).raiseIf f.2.2 d (srcArray h 2)

/-- Handshakes of a streamed row and of the load of a physical row, by class (R102). -/
def streamCost (fmt : Nat) : Nat := if fmt = 0 then 16 else if fmt = 1 ∨ fmt = 2 then 4 else 1
def loadCost (fmt : Nat) : Nat := if fmt = 0 then 4 else if fmt = 1 ∨ fmt = 2 then 2 else 1

/-- Both operands are 4-bit: a physical row holds two contraction indices (R102). -/
def ArrayDesc.four (x : ArrayDesc) : Bool := is4 x.a.fmt && is4 x.b.fmt

/-- A physical row of a half that holds B is masked (R100). -/
def ArrayDesc.masked (x : ArrayDesc) (p : Nat) : Bool := x.mask.testBit (p / 32) || decide (x.k ≤ if x.four then 2 * p else p)

/-- Masked rows of a tile band (R95). -/
def bandMasked (masked : Nat → Bool) (b : Nat) : Nat := ((List.range 64).filter (fun i => masked (64 * b + i))).length

/-- The handshakes that masked rows skip in the tiles of a half (R100): those of the streamed rows and those of the load
(which handshakes count: DEDUCED, log 125). -/
def tileSkips (d : Nat) (h : Half) (masked : Nat → Bool) (slots : Nat) : List (Nat × Nat) :=
  (tileKeys d h).zip ((List.range 64).map (fun t => bandMasked masked (t / 8) * slots))

/-- The tiles a descriptor uses, each with the handshakes skipped in it. The weight-gradient half masks the rows from M on, and
does nothing without WGRAD (R116, R117). -/
def ArrayDesc.skips (x : ArrayDesc) (d : Nat) : List (Nat × Nat) :=
  let slots := x.m * max (streamCost x.a.fmt) (streamCost x.b.fmt) + (if x.reuse then 0 else loadCost x.b.fmt)
  x.bHalves.flatMap (fun h => tileSkips d h x.masked slots)
  ++ (if x.wgrad then
    let both := is4 x.x.fmt && is4 x.a.fmt
    tileSkips d x.gradHalf.other (fun p => decide (x.m ≤ if both then 2 * p else p))
      (x.n * max (streamCost x.x.fmt) (streamCost x.a.fmt))
  else [])

/-! ### Running a descriptor -/

/-- The cell of the stationary operand at contraction index `r` and column `c` of the product (R96): in OP 1 the columns of both
halves act as one. -/
def ArrayDesc.cellKey (x : ArrayDesc) (d wWest r c : Nat) : Nat :=
  match x.op with
  | 0 => ckey d x.half r c
  | 1 => if c < wWest then ckey d .west r c else ckey d .east r (c - wWest)
  | _ => ckey d x.gradHalf r c

/-- Load an element with its scale: into the shadow of the cell, from which the cell takes it (R95). -/
def State.loadCell (s : State) (key : Nat) (v : Nat × Nat) : State := (s.setShadow key v).setCell key v

/-- The contraction indices of B whose rows are written: those of a masked segment are not (R100). -/
def ArrayDesc.loaded (x : ArrayDesc) : List Nat :=
  (List.range x.k).filter (fun r => !x.masked (if x.four then r / 2 else r))

/-- Load the stationary tile B (R95, R114). -/
def State.loadB (s : State) (d wWest : Nat) (x : ArrayDesc) (rd : Nat → Byte) : State :=
  x.loaded.foldl (fun s r => (List.range x.n).foldl (fun s c =>
    s.loadCell (x.cellKey d wWest r c) (if x.transB then x.b.elem rd c r else x.b.elem rd r c)) s) s

/-- Load the rows of G into the weight-gradient half (R116). -/
def State.loadG (s : State) (d : Nat) (x : ArrayDesc) (rd : Nat → Byte) : State :=
  (List.range x.m).foldl (fun s m => (List.range x.k).foldl (fun s c =>
    s.loadCell (ckey d x.gradHalf.other m c) (x.a.elem rd m c)) s) s

/-- The record that a load leaves (R120). -/
def ArrayDesc.record (x : ArrayDesc) (t : Nat) : Stationary :=
  { tenant := t, addr := BitVec.ofNat 26 x.b.addr, scale := BitVec.ofNat 26 x.b.scale
    stride := BitVec.ofNat 16 x.b.stride, fmt := BitVec.ofNat 4 x.b.fmt, blk := BitVec.ofNat 3 x.b.blk
    phase := BitVec.ofNat 7 x.b.phase, trans := x.transB, k := x.k, n := x.n
    role := if x.op = 2 then some x.swap else none }

/-- Element (m, r) of the streamed operand A (R114). -/
def ArrayDesc.streamA (x : ArrayDesc) (rd : Nat → Byte) (m r : Nat) : Nat × Nat :=
  if x.transA then x.a.elem rd r m else x.a.elem rd m r

/-- The main product: A with what the cells hold. -/
def ArrayDesc.main (x : ArrayDesc) (rd : Nat → Byte) (cell : Nat → Nat → Nat × Nat) : Product :=
  { rows := x.m, k := x.k, cols := x.n, fmtS := x.a.fmt, fmtT := x.b.fmt, nf2 := x.nf2, mask := x.mask, acc := x.acc
    a := x.streamA rd, b := cell }

/-- The weight-gradient product of R116: X transposed with the broadcast G. -/
def ArrayDesc.wgradProduct (x : ArrayDesc) (rd : Nat → Byte) : Product :=
  { rows := x.n, k := x.m, cols := x.k, fmtS := x.x.fmt, fmtT := x.a.fmt, nf2 := false, mask := 0, acc := x.accX
    a := fun c m => x.x.elem rd m c, b := fun m c => x.a.elem rd m c }

/-- Where a column of the main product lies (R109): in OP 1 the banks of both halves act as one. -/
def ArrayDesc.place (x : ArrayDesc) (d wWest n : Nat) : Nat × Nat :=
  match x.op with
  | 0 => (bkey d x.half x.bank, n)
  | 1 => if n < wWest then (bkey d .west x.bank, n) else (bkey d .east x.bank, n - wWest)
  | _ => (bkey d x.gradHalf x.bank, n)

/-- The halves whose banks take the main product, each with its columns (R109). -/
def ArrayDesc.parts (x : ArrayDesc) (wWest : Nat) : List (Half × List Nat) :=
  let cols := List.range x.n
  match x.op with
  | 0 => [(x.half, cols)]
  | 1 => [(.west, cols.filter (fun n => decide (n < wWest))), (.east, cols.filter (fun n => decide (wWest ≤ n)))]
  | _ => [(x.gradHalf, cols)]

/-- Write a part of the main product and raise its half's flags. -/
def State.writePart (s : State) (d : Nat) (x : ArrayDesc) (p : Product) (wWest : Nat) (y : Half × List Nat) : State :=
  let r := p.writeAll s (x.place d wWest) x.row0 y.2
  r.1.arrayEvents d y.1 r.2

/-- Pass a bank to vector read-out (R110). -/
def State.releaseBank (s : State) (b : Bool) (bk : Nat) : State :=
  if b then s.modBank bk (fun x => { x with held := true }) else s

/-- The effect of a descriptor that has passed every check. -/
def State.arrayRun (s : State) (d : Nat) (x : ArrayDesc) (t : Nat) : State :=
  let rd := s.vatRd d
  let tag := (t, isInt x.a.fmt)
  let s := (x.banks d).foldl (fun s b => s.prepBank b.1 tag b.2) s
  let wWest := (s.die d).width .west
  let s := if x.reuse then s
    else x.bHalves.foldl (fun s h => s.modDie d (fun y => y.setStat h (some (x.record t)))) (s.loadB d wWest x rd)
  let cell := fun r c => s.cell (x.cellKey d wWest r c)
  let s := (x.parts wWest).foldl (fun s y => s.writePart d x (x.main rd cell) wWest y) s
  let s := if x.wgrad then
      let o := x.gradHalf.other
      let s := (s.loadG d x rd).modDie d (fun y => y.setStat o none)
      let r := (x.wgradProduct rd).writeAll s (fun n => (bkey d o x.bankX, n)) x.row0X (List.range x.k)
      (r.1.arrayEvents d o r.2).releaseBank x.releaseX (bkey d o x.bankX)
    else s
  let s := match x.op with
    | 0 => s.releaseBank x.release (bkey d x.half x.bank)
    | 1 => (s.releaseBank x.release (bkey d .west x.bank)).releaseBank x.release (bkey d .east x.bank)
    | _ => s.releaseBank x.release (bkey d x.gradHalf x.bank)
  s.countBlocks (x.skips d)

/-- An array descriptor: the checks of R119 in order, the bank wait of R110, the read of the Vat, the products. -/
def State.arrayDesc (s : State) (Q : Nat) (w : Desc) : State × Option Code :=
  let d := dieOfQ Q
  let x := arrayOf w
  if s.arrayBad d x then (s, some Status.descFieldRange)
  else if s.arrayIllegal d Q x then (s, some Status.illegalInState)
  else match vatCheck (s.groupOwns d (s.bind Q).group) noCurds x.spans with
  | some e => (s.violation d Q e.1 e.2, some e.1)
  | none =>
    if s.arrayFenced d x then (s, some Status.regionFenced)
    else if (x.banks d).any (fun b => (s.bank b.1).held) then (s, none)
    else
      let r := s.senseVat d x.spans
      if r.2 then (r.1, some Status.regionFenced) else (r.1.arrayRun d x (s.ownerOf Q), some Status.ok)

/-- OP 0; an entry with a reserved OP fails here. -/
def execArrayOneHalf (d : DieId) (q : QId) (seq : BitVec 48) (s : State) : Res :=
  answer s (runEntry s d q seq (fun x => x.cls == 1 && (x.op == 0 || decide (3 ≤ x.op))) (fun s Q x => s.arrayDesc Q x))
/-- OP 1. -/
def execArrayGanged (d : DieId) (q : QId) (seq : BitVec 48) (s : State) : Res :=
  answer s (runEntry s d q seq (fun x => x.cls == 1 && x.op == 1) (fun s Q x => s.arrayDesc Q x))
/-- OP 2. -/
def execArrayGradientPair (d : DieId) (q : QId) (seq : BitVec 48) (s : State) : Res :=
  answer s (runEntry s d q seq (fun x => x.cls == 1 && x.op == 2) (fun s Q x => s.arrayDesc Q x))

end Sys2Proof.Machine
end

