-- ==== Sys2Proof/Machine/Vector.lean ====
section
/-! DEFINITION. The vector engine (R143 to R156): tensors through a chain, accumulator read-out, chain loads. -/

namespace Sys2Proof.Machine

/-! ### The descriptor (R155) -/

structure VecDesc where
  kind : Nat
  slot : Nat
  lanes : Nat
  ret : Bool
  bank : Nat
  reduce : Nat
  bcast : Bool
  rowIn : Bool
  conv : Conv
  rows : Nat
  cols : Nat
  row0 : Nat
  col0 : Nat
  a : Tensor
  b : Tensor
  dst : Tensor
  rowInAddr : Nat
  rowOutAddr : Nat
  stream : Nat
  streamOn : Bool
  rsv : Bool
  deriving DecidableEq, Repr

def vecOf (d : Desc) : VecDesc :=
  let c := convOf (d.w10.truncate 32)
  let st := fld d.w10 47 32
  { kind := fld d.w10 63 62, slot := fld d.w10 61 56, lanes := fld d.w10 55 54, ret := bitAt d.w10 53
    bank := fld d.w10 52 52, reduce := fld d.w10 51 50, bcast := bitAt d.w10 49, rowIn := bitAt d.w10 48
    conv := c, rows := fld d.w18 63 43, cols := fld d.w18 42 26, row0 := fld d.w18 25 16, col0 := fld d.w18 15 6
    a := { addr := fld d.w20 63 38, scale := fld d.w20 37 12, fmt := fld d.w20 11 8, blk := fld d.w20 7 5,
           stride := st, phase := 0 }
    b := { addr := fld d.w28 63 38, scale := fld d.w28 37 12, fmt := fld d.w28 11 8, blk := fld d.w28 7 5,
           stride := st, phase := 0 }
    dst := { addr := fld d.w30 63 38, scale := fld d.w30 37 12, fmt := c.fmt, blk := c.blk, stride := st, phase := 0 }
    rowInAddr := fld d.w38 63 38, rowOutAddr := fld d.w38 37 12, stream := fld d.w38 11 1, streamOn := bitAt d.w38 0
    rsv := fld d.w18 5 0 != 0 || fld d.w20 4 0 != 0 || fld d.w28 4 0 != 0 || fld d.w30 11 0 != 0 }

/-- An operand is present: its format is not 15. -/
def Tensor.present (t : Tensor) : Bool := t.fmt != 15

/-- The clusters of the lane set (R144). -/
def VecDesc.clusters (x : VecDesc) : List Nat :=
  match x.lanes with
  | 0 => [0, 1]
  | 1 => [2, 3]
  | _ => [0, 1, 2, 3]
def VecDesc.halves (x : VecDesc) : List Half :=
  match x.lanes with
  | 0 => [.west]
  | 1 => [.east]
  | _ => [.west, .east]

/-! ### Chains (R151 to R153) -/

/-- An operation word's fields (R152). -/
def opCode (w : BitVec 32) : Nat := fld w 31 26
def opDst (w : BitVec 32) : Nat := fld w 25 22
def opSrc (w : BitVec 32) : Nat → Nat
  | 0 => fld w 21 18
  | 1 => fld w 17 14
  | _ => fld w 13 10

/-- How many sources an operation reads (R153). -/
def opArity (opc : Nat) : Nat :=
  if opc = 4 ∨ opc = 17 then 3
  else if opc = 0 ∨ opc = 19 then 0
  else if opc = 1 ∨ opc = 2 ∨ opc = 3 ∨ opc = 5 ∨ opc = 6 ∨ opc = 9 ∨ opc = 18 then 2
  else 1

/-- A word before the first END breaks R152. -/
def opBad (w : BitVec 32) : Bool :=
  decide (19 < opCode w) || decide (opDst w < 4) || decide (7 < opDst w) || fld w 9 0 != 0
  || (decide (opArity (opCode w) < 2) && opSrc w 1 != 0) || (decide (opArity (opCode w) < 3) && opSrc w 2 != 0)

/-- The operation words of a record up to the first END, or none where the record breaks R152. -/
def chainOps : List (BitVec 32) → Option (List (BitVec 32))
  | [] => some []
  | w :: ws =>
    if opCode w = 0 then (if w = 0 then some [] else none)
    else if opBad w then none
    else (chainOps ws).map (fun r => w :: r)

/-- The 32-bit words of a byte string. -/
def words32 (bs : List Byte) (n : Nat) : List (BitVec 32) :=
  (List.range n).map (fun i => BitVec.ofNat 32 (ofLe ((bs.drop (4 * i)).take 4)))

/-- The registers that a chain's operations read. -/
def Chain.reads (c : Chain) : List Nat :=
  c.ops.flatMap (fun w => (List.range (opArity (opCode w))).map (fun i => opSrc w i))
def Chain.random (c : Chain) : Bool := c.ops.any (fun w => opCode w == 19)

/-- One operation (R153). `rand` is RAND's value. -/
def opVal (opc : Nat) (a b c rand : F32) : F32 :=
  match opc with
  | 1 => f32Add a b
  | 2 => f32Sub a b
  | 3 => f32Mul a b
  | 4 => f32Fma a b c
  | 5 => f32Max a b
  | 6 => f32Min a b
  | 7 => f32Abs a
  | 8 => f32Negate a
  | 9 => f32Div a b
  | 10 => f32Sqrt a
  | 11 => f32Rsqrt a
  | 12 => f32Exp2 a
  | 13 => f32Log2 a
  | 14 => f32Exp a
  | 15 => f32Tanh a
  | 16 => f32Sigmoid a
  | 17 => if f32Gt a 0 then b else c
  | 18 => if f32Gt a b then f32One else 0
  | _ => rand

/-- SEL passes a source on; a NaN it passes is the one NaN. -/
def canonNan (w : F32) : F32 := if f32IsNan w then nan32 else w

/-- Run a chain on its registers A, B, ACC, ROW, T0 to T3, S0 to S7. -/
def runChain (ops : List (BitVec 32)) (rand : F32) (regs : List F32) : List F32 :=
  ops.foldl (fun r w =>
    let src := fun i => r.getD (opSrc w i) 0
    r.set (opDst w) (canonNan (opVal (opCode w) (src 0) (src 1) (src 2) rand))) regs

/-- RAND of draw `i` of a slot (R153): 24 bits as a fraction. -/
def randVal (st : Stream) (i : Nat) : F32 := rne32 (.fin (st.draw i / 2 ^ 16 % 2 ^ 24 : Nat) (-24))

/-! ### Checks (R156) -/

/-- The width of the bank a read-out reads (R149). -/
def State.bankWidth (s : State) (d : Nat) (x : VecDesc) : Nat :=
  x.halves.foldl (fun a h => a + (s.die d).width h) 0

/-- Columns of a row of D as it is written: up to the next block boundary (R125). -/
def VecDesc.padCols (x : VecDesc) : Nat :=
  if x.conv.blk = 0 then x.cols else ceilDiv x.cols (blkSize x.conv.blk) * blkSize x.conv.blk

def VecDesc.aSpans (x : VecDesc) : List Span := if x.a.present then x.a.spans x.rows x.cols false else []
def VecDesc.bSpans (x : VecDesc) : List Span :=
  if x.b.present then x.b.spans (if x.bcast then 1 else x.rows) x.cols false else []
def VecDesc.dSpans (x : VecDesc) : List Span := x.dst.spans x.rows x.padCols true
def VecDesc.inSpans (x : VecDesc) : List Span :=
  if x.rowIn then [{ base := x.rowInAddr, rowBytes := 4 * x.rows, stride := 0, rows := 1, write := false }] else []
def VecDesc.outSpans (x : VecDesc) : List Span :=
  if x.reduce = 0 then [] else [{ base := x.rowOutAddr, rowBytes := 4 * x.rows, stride := 0, rows := 1, write := true }]
def VecDesc.spans (x : VecDesc) : List Span := x.aSpans ++ x.bSpans ++ x.inSpans ++ x.dSpans ++ x.outSpans

/-- D is A exactly (R148). -/
def VecDesc.inPlace (x : VecDesc) : Bool :=
  x.a.present && x.dst.addr == x.a.addr && x.dst.scale == x.a.scale && x.dst.fmt == x.a.fmt && x.dst.blk == x.a.blk

/-- A written range meets another range (R148). -/
def VecDesc.clash (x : VecDesc) : Bool :=
  let reads := (if x.inPlace then [] else x.aSpans) ++ x.bSpans ++ x.inSpans
  let writes := x.dSpans ++ x.outSpans
  writes.any (fun w => reads.any (fun r => w.overlaps r))
  || (match writes with
    | w :: ws => ws.any (fun y => w.overlaps y)
        || (match ws with
          | v :: vs => vs.any (fun y => v.overlaps y)
          | [] => false)
    | [] => false)

/-- An absent or present operand breaks its shape (DEDUCED, log 102). -/
def VecDesc.operandBad (x : VecDesc) (t : Tensor) : Bool :=
  if t.present then t.bad x.cols else decide (4 < t.blk) || (t.blk == 0 && t.scale != 0)

/-- Check 1 for KIND 0 and 1. -/
def State.vecBad (s : State) (d : Nat) (x : VecDesc) (c : Chain) : Bool :=
  x.rsv || x.kind == 3 || x.lanes == 3 || x.reduce == 3
  || (x.kind == 0 && (x.ret || x.bank != 0 || x.row0 != 0 || x.col0 != 0))
  || x.dst.stride == 0 || x.rows == 0 || x.cols == 0 || decide (65536 < x.cols)
  || x.conv.bad1 x.streamOn || x.operandBad x.a || x.operandBad x.b || x.dst.bad x.cols
  || (!x.rowIn && x.rowInAddr != 0) || (x.reduce == 0 && x.rowOutAddr != 0)
  || (!x.a.present && c.reads.contains 0) || (!x.b.present && c.reads.contains 1)
  || (x.kind == 0 && c.reads.contains 2) || (!x.rowIn && c.reads.contains 3) || (c.random && !x.streamOn)
  || (x.kind == 1 && (decide (1024 < x.row0 + x.rows) || decide (s.bankWidth d x < x.col0 + x.cols)))
  || !x.spans.all Span.inVat || x.clash

/-- The queue's REGION covers the lane set, and a read-out's LANES fit MODE (R144, R149). -/
def State.lanesOk (s : State) (d Q : Nat) (x : VecDesc) : Bool :=
  let r := (s.bind Q).region
  (r == 2 || r == x.lanes) && (x.kind != 1 || ((x.lanes == 2) == (s.mode d == 1)))

/-- The blocks of the lane set's clusters. -/
def VecDesc.blocks (x : VecDesc) (d : Nat) : List Nat := x.clusters.map (fun c => dkey d 134 (128 + c))

/-- A chain slot serves a tenant (R151). -/
def Chain.serves (c : Chain) (t : Nat) : Bool := c.tag.isNone || c.tag == some t

/-- Check 2 for KIND 0 and 1. -/
def State.vecIllegal (s : State) (d Q : Nat) (x : VecDesc) (c : Chain) (st : Stream) : Bool :=
  let off := fun (t : Tensor) => (t.present && !s.fmtOn d t.fmt) || !s.blkOn d t.blk
  !s.lanesOk d Q x || (x.blocks d).any (fun k => (s.block k).gated) || convOff (s.formats d) x.conv
  || off x.a || off x.b || !c.serves (s.ownerOf Q) || s.streamBad Q x.streamOn st

/-! ### Elements -/

/-- Key of the accumulator entry a read-out takes for element (r, c): in MODE 1 the ganged bank (R149). -/
def VecDesc.accKey (x : VecDesc) (d wWest r c : Nat) : Nat :=
  let n := x.col0 + c
  match x.lanes with
  | 0 => akey (bkey d .west x.bank) (x.row0 + r) n
  | 1 => akey (bkey d .east x.bank) (x.row0 + r) n
  | _ => if n < wWest then akey (bkey d .west x.bank) (x.row0 + r) n
    else akey (bkey d .east x.bank) (x.row0 + r) (n - wWest)

/-- An input element as the lanes take it (R147). -/
def laneIn (t : Tensor) (rd : Nat → Byte) (r c : Nat) : F32 :=
  BitVec.ofNat 32 (convertVal 0 0 false false 0 (t.val rd r c)).1

/-- A binary32 input as the lanes take it (R147). -/
def laneF32 (w : F32) : F32 := BitVec.ofNat 32 (convertVal 0 0 false false 0 (f32Val w)).1

/-- An accumulator entry as the lanes take it (R147). -/
def laneAcc (int : Bool) (w : BitVec 32) : F32 := if int then rne32 (.fin w.toInt 0) else w

/-- T0 of one element (R145): from its inputs through the chain. -/
def VecDesc.element (x : VecDesc) (ch : Chain) (st : Stream) (rd : Nat → Byte) (acc : Nat → Nat → F32) (r c : Nat) : F32 :=
  let av := if x.a.present then laneIn x.a rd r c else 0
  let bv := if x.b.present then laneIn x.b rd (if x.bcast then 0 else r) c else 0
  let accv := if x.kind = 1 then acc r c else 0
  let row : F32 := if x.rowIn then
      laneF32 (BitVec.ofNat 32 (ofLe ((List.range 4).map (fun i => rd (x.rowInAddr + 4 * r + i))))) else 0
  let t0 := if x.kind = 1 then accv else av
  let regs := [av, bv, accv, row, t0, 0, 0, 0] ++ ch.scalars ++ List.replicate (8 - ch.scalars.length) 0
  let rand := if ch.random then randVal st (r * x.cols + c) else 0
  (runChain ch.ops rand regs).getD 4 0

/-- One round of the row reduction of R154. -/
def reduceRound (op : F32 → F32 → F32) : List F32 → List F32
  | a :: b :: xs => op a b :: reduceRound op xs
  | xs => xs

/-- The row reduction (R154). -/
def rowReduce (op : F32 → F32 → F32) : Nat → List F32 → F32
  | 0, xs => xs.headD 0
  | n + 1, xs => match xs with
    | [] => 0
    | [a] => a
    | _ => rowReduce op n (reduceRound op xs)

/-- Pack a row; bits of its last byte that belong to positions beyond it keep their value (R125). -/
def packRow (fmt : Nat) (es : List Nat) (old : Byte) : List Byte :=
  let bs := packElems fmt es
  let r := es.length * fmtBits fmt % 8
  if r = 0 then bs
  else bs.dropLast ++ [BitVec.ofNat 8 ((bs.getLast?.getD 0).toNat + old.toNat / 2 ^ r * 2 ^ r)]

/-- One row of D and of the row output: the state, what the conversion counted, and whether a T0 was NaN. -/
def State.vecRow (s : State) (d : Nat) (x : VecDesc) (st : Stream) (r : Nat) (ts : List F32) : State × ConvCount × Bool :=
  let draw := fun c => if x.conv.rnd = 2 then st.draw (r * x.cols + c) % 2 ^ 16 else 0
  let ins := (List.range ts.length).map (fun c => (f32In x.conv.nf2 (ts.getD c 0), draw c))
  let row := convertRow x.conv (x.cols + 1) ins
  let at' := x.dst.addr + r * strideBytes x.conv.fmt x.dst.stride
  let n := elemBytes x.conv.fmt row.2.1.length
  let s1 := s.storeVat d at' (packRow x.conv.fmt row.2.1 (s.vatByte (vkey d (at' + n - 1))))
  let s2 := if x.conv.blk = 0 then s1
    else s1.storeVat d (x.dst.scale + r * scaleStride x.dst.stride x.conv.blk) (row.1.map (fun v => BitVec.ofNat 8 v))
  let s3 := if x.reduce = 0 then s2
    else
      let v := rowReduce (if x.reduce = 1 then f32Sum else f32Max) 17 ts
      s2.storeVat d (x.rowOutAddr + 4 * r) (leBytes 4 v.toNat)
  (s3, row.2.2, ts.any f32IsNan)

/-- Every row of a tensor. The inputs are those the descriptor found: a written range meets none of them but A itself,
whose element is read before it is written (R148). -/
def State.vecRows (s : State) (d : Nat) (x : VecDesc) (ch : Chain) (st : Stream) (acc : Nat → Nat → F32) : State × ConvCount × Bool :=
  let rd := s.vatRd d
  (List.range x.rows).foldl (fun a r =>
    let o := a.1.vecRow d x st r ((List.range x.cols).map (fun c => x.element ch st rd acc r c))
    (o.1, a.2.1.add o.2.1, a.2.2 || o.2.2)) (s, {}, false)

/-- The lanes of each cluster that the last group leaves idle, of which the first `e` lanes take elements. -/
def idleLanes : Nat → List Nat → List Nat
  | _, [] => []
  | e, l :: ls => (l - e) :: idleLanes (e - l) ls

/-- The tail of `n` elements dealt to clusters with these lane counts (R145): none where the last group is whole. -/
def tailOf (n : Nat) (ls : List Nat) : List Nat :=
  if n % ls.sum = 0 then ls.map (fun _ => 0) else idleLanes (n % ls.sum) ls

/-- The reported lanes of a cluster (R27). -/
def Die.lanes (x : Die) : Nat → Nat
  | 0 => x.lanes0.toNat
  | 1 => x.lanes1.toNat
  | 2 => x.lanes2.toNat
  | _ => x.lanes3.toNat

/-- The clusters of the set with their tails: in a ganged read-out each pair deals its part (R149). That a tail counts its
lanes once: DEDUCED (log 125). -/
def State.tails (s : State) (d : Nat) (x : VecDesc) : List (Nat × Nat) :=
  let ls := x.clusters.map (s.die d).lanes
  let west := ((List.range x.cols).filter (fun c => decide (x.col0 + c < (s.die d).width .west))).length
  let idle := if x.kind = 1 ∧ x.lanes = 2 then
      tailOf (x.rows * west) (ls.take 2) ++ tailOf (x.rows * (x.cols - west)) (ls.drop 2)
    else tailOf (x.rows * x.cols) ls
  (x.blocks d).zip idle

/-- The effect of a KIND 0 or 1 descriptor that has passed its checks. -/
def State.vecRun (s : State) (d : Nat) (x : VecDesc) (ch : Chain) (st : Stream) : State :=
  let wWest := (s.die d).width .west
  let int := fun k => (((s.bank (k / (1024 * 512))).tag.map Prod.snd).getD false)
  let acc := fun r c => let k := x.accKey d wWest r c; laneAcc (int k) (s.accEntry k)
  let o := s.vecRows d x ch st acc
  ((o.1.countConv d o.2.1).raiseIf o.2.2 d srcVecNan).countBlocks (s.tails d x)

/-! ### Read-out (R149, R150) -/

/-- The banks a read-out reads. -/
def VecDesc.banks (x : VecDesc) (d : Nat) : List Nat := x.halves.map (fun h => bkey d h x.bank)

/-- The bank is the tenant's, or untagged. -/
def Bank.ofTenant (b : Bank) (t : Nat) : Bool := b.tag.isNone || b.tag.map Prod.fst == some t

/-- Return a bank to the array. -/
def State.returnBanks (s : State) (x : VecDesc) (d : Nat) : State :=
  if x.ret then (x.banks d).foldl (fun s k => s.modBank k (fun b => { b with held := false })) s else s

/-! ### Chain loads (R151, R152) -/

/-- A chain load breaks R155 or its record does not lie in the Vat. -/
def chainLoadBad (w : Desc) (x : VecDesc) (sp : Span) : Bool :=
  fld w.w10 55 0 != 0 || w.w18 != 0 || fld w.w20 37 0 != 0 || w.w28 != 0 || w.w30 != 0 || w.w38 != 0 || x.kind != 2 || !sp.inVat

/-- Load a chain slot from its record, unless the record breaks R152. -/
def State.loadChain (s : State) (d Q : Nat) (x : VecDesc) : State × Option Code :=
  let bs := s.vatBytes d x.a.addr 160
  match chainOps (words32 bs 32) with
  | none => (s, some Status.descFieldRange)
  | some ops =>
    (s.setChain (dkey d 64 x.slot)
      { ops := ops, scalars := words32 (bs.drop 128) 8, tag := some (s.ownerOf Q), loaded := true }, some Status.ok)

/-- A KIND 2 descriptor. -/
def State.chainDesc (s : State) (Q : Nat) (w : Desc) : State × Option Code :=
  let d := dieOfQ Q
  let x := vecOf w
  let sp : Span := { base := x.a.addr, rowBytes := 160, stride := 0, rows := 1, write := false }
  if chainLoadBad w x sp then (s, some Status.descFieldRange)
  else if !(s.chain (dkey d 64 x.slot)).serves (s.ownerOf Q) then (s, some Status.illegalInState)
  else match vatCheck (s.groupOwns d (s.bind Q).group) noCurds [sp] with
  | some e => (s.violation d Q e.1 e.2, some e.1)
  | none =>
    if s.spanFenced d [sp] then (s, some Status.regionFenced)
    else
      let r := s.senseVat d [sp]
      if r.2 then (r.1, some Status.regionFenced) else r.1.loadChain d Q x

/-! ### Descriptors -/

/-- A vector descriptor of KIND 0, 1 or the reserved 3: the checks of R156, the bank wait and tag of R150, the run. -/
def State.vecDesc (s : State) (Q : Nat) (w : Desc) : State × Option Code :=
  let d := dieOfQ Q
  let x := vecOf w
  let ch := s.chainFor Q w
  let st := s.streamFor Q w
  if s.vecBad d x ch then (s, some Status.descFieldRange)
  else if s.vecIllegal d Q x ch st then (s, some Status.illegalInState)
  else match vatCheck (s.groupOwns d (s.bind Q).group) noCurds x.spans with
  | some e => (s.violation d Q e.1 e.2, some e.1)
  | none =>
    if x.halves.any (fun h => s.fencedAt d h) || s.spanFenced d x.spans then (s, some Status.regionFenced)
    else if x.kind = 1 ∧ (x.banks d).any (fun k => !(s.bank k).held) then (s, none)
    else if x.kind = 1 ∧ (x.banks d).any (fun k => !(s.bank k).ofTenant (s.ownerOf Q)) then (s, some Status.illegalInState)
    else
      let r := s.senseVat d x.spans
      if r.2 then (r.1, some Status.regionFenced) else ((r.1.vecRun d x ch st).returnBanks x d, some Status.ok)

/-- KIND 0; an entry with the reserved KIND fails here. -/
def execVectorTensor (d : DieId) (q : QId) (seq : BitVec 48) (s : State) : Res :=
  answer s (runEntry s d q seq (fun x => x.cls == 2 && (x.op == 0 || x.op == 3)) (fun s Q x => s.vecDesc Q x))
/-- KIND 1. -/
def execAccumulatorReadout (d : DieId) (q : QId) (seq : BitVec 48) (s : State) : Res :=
  answer s (runEntry s d q seq (fun x => x.cls == 2 && x.op == 1) (fun s Q x => s.vecDesc Q x))
/-- KIND 2. -/
def execChainLoad (d : DieId) (q : QId) (seq : BitVec 48) (s : State) : Res :=
  answer s (runEntry s d q seq (fun x => x.cls == 2 && x.op == 2) (fun s Q x => s.chainDesc Q x))

end Sys2Proof.Machine
end

