-- ==== Sys2Proof/Machine/Update.lean ====
section
/-! DEFINITION. The fused update units (R157 to R162): momentum SGD, Adam, sign momentum, with whey (R138) and a working
copy. -/

namespace Sys2Proof.Machine

/-! ### The descriptor (R158) -/

structure UpdDesc where
  opt : Nat
  gFmt : Nat
  whey : Bool
  copy : Bool
  count : Nat
  p : Nat
  m : Nat
  v : Nat
  w : Nat
  g : Nat
  cp : Nat
  recAddr : Nat
  stream : Nat
  streamOn : Bool
  conv : Conv
  delta : Int
  rsv : Bool
  deriving DecidableEq, Repr

def updOf (d : Desc) : UpdDesc :=
  let pg := fun (w : Word) (hi lo : Nat) => fld w hi lo * 4096
  { opt := fld d.w10 63 62, gFmt := fld d.w10 61 58, whey := bitAt d.w10 57, copy := bitAt d.w10 56
    count := fld d.w10 33 0, p := pg d.w18 63 34, m := pg d.w18 33 4, v := pg d.w20 63 34, w := pg d.w20 33 4
    g := pg d.w28 63 34, cp := pg d.w28 33 4, recAddr := fld d.w30 63 28 * 64, stream := fld d.w30 27 17
    streamOn := bitAt d.w30 16, conv := convOf (BitVec.ofNat 32 (d.w38.toNat / 2 ^ 32))
    delta := (BitVec.ofNat 30 (fld d.w38 31 2)).toInt * 4096
    rsv := fld d.w10 55 34 != 0 || fld d.w18 3 0 != 0 || fld d.w20 3 0 != 0 || fld d.w28 3 0 != 0
      || fld d.w30 15 0 != 0 || fld d.w38 1 0 != 0 }

/-- Bytes of a gradient element. -/
def UpdDesc.gBytes (x : UpdDesc) : Nat := if x.gFmt = 0 then 4 else 2

/-- An address in the destination bank. -/
def UpdDesc.dst (x : UpdDesc) (a : Nat) : Int := (a : Int) + x.delta

/-- What the descriptor reads: address and bytes. -/
def UpdDesc.reads (x : UpdDesc) : List (Int × Nat) :=
  [((x.p : Int), 4 * x.count), ((x.m : Int), 4 * x.count), ((x.g : Int), x.gBytes * x.count), ((x.recAddr : Int), 64)]
  ++ (if x.opt = 1 then [((x.v : Int), 4 * x.count)] else [])
  ++ (if x.whey then [((x.w : Int), 2 * x.count)] else [])

/-- What it writes. -/
def UpdDesc.writes (x : UpdDesc) : List (Int × Nat) :=
  [(x.dst x.p, 4 * x.count), (x.dst x.m, 4 * x.count)]
  ++ (if x.opt = 1 then [(x.dst x.v, 4 * x.count)] else [])
  ++ (if x.whey then [(x.dst x.w, 2 * x.count)] else [])
  ++ (if x.copy then [((x.cp : Int), 2 * x.count)] else [])

def rangesMeet (a b : Int × Nat) : Bool := decide (a.1 < b.1 + b.2) && decide (b.1 < a.1 + a.2)

/-- A written range meets a read range or another written range. -/
def UpdDesc.clash (x : UpdDesc) : Bool :=
  let ws := x.writes
  ws.any (fun w => x.reads.any (fun r => rangesMeet w r))
  || (List.range ws.length).any (fun i => (List.range i).any (fun j => rangesMeet (ws.getD i (0, 0)) (ws.getD j (0, 0))))

/-- A range lies off the die's HBM. -/
def offDie (d : Nat) (r : Int × Nat) : Bool := decide (r.1 < 0) || !hbmIn d r.1.toNat r.2

/-- Check 1 of R159. -/
def UpdDesc.bad (x : UpdDesc) (d : Nat) : Bool :=
  x.rsv || x.opt == 3 || !(x.gFmt == 0 || x.gFmt == 2) || x.count == 0
  || (x.opt != 1 && x.v != 0) || (!x.whey && x.w != 0) || (!x.copy && x.cp != 0) || x.delta == 0
  || x.conv.bad1 x.streamOn || !(x.conv.fmt == 1 || x.conv.fmt == 2) || x.conv.blk != 0 || (x.whey && x.conv.nf2)
  || (x.reads ++ x.writes).any (offDie d) || x.clash

/-- Check 2 of R159. -/
def State.updIllegal (s : State) (d Q : Nat) (x : UpdDesc) (st : Stream) : Bool :=
  (s.bind Q).stream != 3 || !s.fmtOn d x.gFmt || convOff (s.formats d) x.conv || s.streamBad Q x.streamOn st

/-! ### Arithmetic (R160, R161) -/

/-- The factors of the update record. -/
structure UpdRec where
  lr : F32
  beta1 : F32
  omb1 : F32
  beta2 : F32
  omb2 : F32
  eps : F32
  wd : F32
  c1 : F32
  c2 : F32
  gscale : F32
  deriving DecidableEq, Repr

def updRecOf (bs : List Byte) : UpdRec :=
  let w := fun i => BitVec.ofNat 32 (ofLe ((bs.drop (4 * i)).take 4))
  { lr := w 0, beta1 := w 1, omb1 := w 2, beta2 := w 3, omb2 := w 4, eps := w 5, wd := w 6, c1 := w 7, c2 := w 8, gscale := w 9 }

/-- Each operation rounds once under rne32; a zero result is +0 (R106; DEDUCED, log 41). -/
def uMul (a b : F32) : F32 := rne32 ((f32Val a).mul (f32Val b))
def uAdd (a b : F32) : F32 := rne32 ((f32Val a).add (f32Val b))
def uFma (a b c : F32) : F32 := rne32 (((f32Val a).mul (f32Val b)).add (f32Val c))
def plusZero (w : F32) : F32 := if f32IsZero w then 0 else w
def uDiv (a b : F32) : F32 := plusZero (f32Div a b)
def uSqrt (a : F32) : F32 := plusZero (f32Sqrt a)

/-- sign of R161. The spec states no result for NaN: a free value, the same for the same NaN (log 1, R275). -/
def uSign (k : F32) : F32 :=
  match f32Val k with
  | .nan => Config.signOfNan k
  | .inf neg => if neg then 0xBF800000 else f32One
  | .fin m _ => if m = 0 then 0 else if m < 0 then 0xBF800000 else f32One

/-- One parameter's state in its bank: p, m, v, w. -/
structure Param where
  p : F32
  m : F32
  v : F32
  w : Nat
  deriving DecidableEq, Repr

/-- The step u and the moments (R161). -/
def updStep (opt : Nat) (r : UpdRec) (x : Param) (g : F32) : F32 × F32 × F32 :=
  let decay := uMul r.wd x.p
  match opt with
  | 0 =>
    let m := uFma r.beta1 x.m g
    (f32Negate (uMul r.lr (uAdd m decay)), m, x.v)
  | 1 =>
    let m := uFma r.beta1 x.m (uMul r.omb1 g)
    let v := uFma r.beta2 x.v (uMul r.omb2 (uMul g g))
    let den := uAdd (uSqrt (uMul v r.c2)) r.eps
    (f32Negate (uMul r.lr (uAdd (uDiv (uMul m r.c1) den) decay)), m, v)
  | _ =>
    let k := uFma r.beta1 x.m (uMul r.omb1 g)
    (f32Negate (uMul r.lr (uAdd (uSign k) decay)), uFma r.beta2 x.m (uMul r.omb2 g), x.v)

def f32Fin (w : F32) : Bool := (f32Val w).isFin

/-- What one parameter gives: its new state, its copy, what was counted, whether it was skipped. -/
structure UpdOut where
  new : Param
  copy : Nat
  count : ConvCount
  skip : Bool
  deriving DecidableEq, Repr

/-- The copy of a parameter (R129). -/
def UpdDesc.copyOf (x : UpdDesc) (p : F32) (draw : Nat) : Nat × ConvCount :=
  if x.copy then convertVal x.conv.fmt x.conv.rnd x.conv.sat x.conv.nf2 draw (f32In x.conv.nf2 p) else (0, {})

/-- Every written result that is not finite is counted: OVF where what it was computed from was finite, otherwise NONFINITE
(R162, R138; DEDUCED, log 40). -/
def nonfiniteOf (inputs : Bool) (w : F32) : ConvCount :=
  if f32Fin w then {} else if inputs then { ovf := 1 } else { nonfinite := 1 }

/-- Update one parameter (R161, R162). -/
def UpdDesc.one (x : UpdDesc) (r : UpdRec) (y : Param) (gIn : F32) (draw : Nat) : UpdOut :=
  let g := uMul r.gscale gIn
  if !f32Fin g then
    let c := x.copyOf y.p draw
    { new := y, copy := c.1, count := c.2, skip := true }
  else
    let u := updStep x.opt r y g
    let wOk := !x.whey || (decodeElem 2 y.w).isFin
    -- what m, v and p are computed from
    let mIn := f32Fin y.m && (match x.opt with
      | 0 => f32Fin r.beta1
      | 1 => f32Fin r.beta1 && f32Fin r.omb1
      | _ => f32Fin r.beta2 && f32Fin r.omb2)
    let vIn := f32Fin y.v && f32Fin r.beta2 && f32Fin r.omb2
    let kIn := f32Fin y.m && f32Fin r.beta1 && (x.opt == 0 || f32Fin r.omb1)
    let uIn := kIn && f32Fin r.lr && f32Fin r.wd
      && (x.opt != 1 || (vIn && f32Fin r.eps && f32Fin r.c1 && f32Fin r.c2))
    let pIn := f32Fin y.p && wOk && (uIn || f32Fin u.1)
    let a := applyWhey y.p u.1 y.w
    let p := if x.whey then a.1 else uAdd y.p u.1
    let wc : ConvCount := if x.whey && f32Fin a.1 then a.2.2 else {}
    let c := x.copyOf p draw
    { new := { p := p, m := u.2.1, v := u.2.2, w := if x.whey then a.2.1 else y.w }
      copy := c.1
      count := ((((nonfiniteOf pIn p).add (nonfiniteOf mIn u.2.1)).add (if x.opt = 1 then nonfiniteOf vIn u.2.2 else {})).add wc).add c.2
      skip := false }

/-! ### Pages -/

/-- Parameters handled together: a page of bfloat16. -/
def updChunk : Nat := 2048

/-- Read a list of ranges in order, each by its page checks: the bytes, or the first failure. -/
def State.readRanges (s : State) (t : Nat) : List (Nat × Nat) → State × Except Code (List (List Byte))
  | [] => (s, .ok [])
  | (a, n) :: rs =>
    let r := s.readHbm t false a n
    match r.2 with
    | .error c => (r.1, .error c)
    | .ok bs =>
      let q := r.1.readRanges t rs
      match q.2 with
      | .error c => (q.1, .error c)
      | .ok bss => (q.1, .ok (bs :: bss))

/-- Write a list of ranges in order, moved from pages `src`; the first page that fails or refuses stops it (R179, R343). -/
def State.writeRanges (s : State) (t : Nat) (src : List Nat) : List (Nat × List Byte) → State × Option Code
  | [] => (s, none)
  | (a, bs) :: rs =>
    let r := s.writeMoved t false src a bs
    match r.2 with
    | some c => (r.1, some c)
    | none => r.1.writeRanges t src rs

/-- The element `i` of `n` bytes of a byte string. -/
def elemOf (n : Nat) (bs : List Byte) (i : Nat) : Nat := ofLe ((bs.drop (n * i)).take n)

/-- The source ranges of the parameters from `i` on, `n` of them: p, m, g, v, w. -/
def UpdDesc.chunkReads (x : UpdDesc) (i n : Nat) : List (Nat × Nat) :=
  [(x.p + 4 * i, 4 * n), (x.m + 4 * i, 4 * n), (x.g + x.gBytes * i, x.gBytes * n),
   (x.v + 4 * i, if x.opt = 1 then 4 * n else 0), (x.w + 2 * i, if x.whey then 2 * n else 0)]

/-- The gradient element as binary32: bfloat16 exactly. -/
def UpdDesc.grad (x : UpdDesc) (e : Nat) : F32 := if x.gFmt = 0 then BitVec.ofNat 32 e else BitVec.ofNat 32 (e * 2 ^ 16)

/-- The outcomes of a chunk. -/
def UpdDesc.chunkOut (x : UpdDesc) (r : UpdRec) (st : Stream) (i n : Nat) (bss : List (List Byte)) : List UpdOut :=
  let b := fun k => bss.getD k []
  (List.range n).map (fun j =>
    let draw := if x.conv.rnd = 2 then st.draw (i + j) % 2 ^ 16 else 0
    x.one r { p := BitVec.ofNat 32 (elemOf 4 (b 0) j), m := BitVec.ofNat 32 (elemOf 4 (b 1) j)
              v := BitVec.ofNat 32 (elemOf 4 (b 3) j), w := elemOf 2 (b 4) j }
      (x.grad (elemOf x.gBytes (b 2) j)) draw)

/-- The destination ranges and bytes of a chunk. -/
def UpdDesc.chunkWrites (x : UpdDesc) (i : Nat) (os : List UpdOut) : List (Nat × List Byte) :=
  let bytes := fun (n : Nat) (f : UpdOut → Nat) => os.flatMap (fun o => leBytes n (f o))
  let at' := fun (a k : Nat) => (x.dst (a + k * i)).toNat
  [(at' x.p 4, bytes 4 (fun o => o.new.p.toNat)), (at' x.m 4, bytes 4 (fun o => o.new.m.toNat))]
  ++ (if x.opt = 1 then [(at' x.v 4, bytes 4 (fun o => o.new.v.toNat))] else [])
  ++ (if x.whey then [(at' x.w 2, bytes 2 (fun o => o.new.w))] else [])
  ++ (if x.copy then [(x.cp + 2 * i, bytes 2 (fun o => o.copy))] else [])

/-- The pages that a chunk is computed from, the update record's among them. -/
def UpdDesc.chunkPages (x : UpdDesc) (i n : Nat) : List Nat :=
  rangePages x.recAddr 64 ++ (x.chunkReads i n).flatMap (fun r => rangePages r.1 r.2)

/-- How far an update has come: conversion counts and parameters skipped and written. -/
structure UpdTally where
  count : ConvCount := {}
  skipped : Nat := 0
  written : Nat := 0
  deriving DecidableEq, Repr

def UpdTally.add (a : UpdTally) (os : List UpdOut) : UpdTally :=
  { count := os.foldl (fun c o => c.add o.count) a.count, skipped := a.skipped + (os.filter UpdOut.skip).length
    written := a.written + os.length }

/-- Update the parameters from `i` on, chunk by chunk; a page that fails stops the units there (R159, R179). -/
def State.updChunks (s : State) (x : UpdDesc) (r : UpdRec) (st : Stream) (t : Nat) (n0 : UpdTally) :
    Nat → Nat → State × UpdTally × Option Code
  | 0, _ => (s, n0, none)
  | fuel + 1, i =>
    if x.count ≤ i then (s, n0, none)
    else
      let n := min updChunk (x.count - i)
      let q := s.readRanges t (x.chunkReads i n)
      match q.2 with
      | .error c => (q.1, n0, some c)
      | .ok bss =>
        let os := x.chunkOut r st i n bss
        let w := q.1.writeRanges t (x.chunkPages i n) (x.chunkWrites i os)
        match w.2 with
        | some c => (w.1, n0, some c)
        | none => w.1.updChunks x r st t (n0.add os) fuel (i + updChunk)

/-- The counters of an update descriptor (R136, R162, R164). -/
def State.updCount (s : State) (d : Nat) (n : UpdTally) : State :=
  let s := (s.countConv d n.count).modDie d (fun x => { x with
    updSkip := ctrAdd x.updSkip n.skipped, updParams := ctrAdd x.updParams n.written })
  s.raiseIf (n.skipped != 0) d srcUpdSkip

/-- The effect of an update descriptor that has passed its checks. -/
def State.updRun (s : State) (d Q : Nat) (x : UpdDesc) (st : Stream) : State × Option Code :=
  let t := s.ownerOf Q
  let q := s.readHbm t false x.recAddr 64
  match q.2 with
  | .error c => (q.1, some c)
  | .ok bs =>
    let o := q.1.updChunks x (updRecOf bs) st t {} (x.count / updChunk + 1) 0
    (o.1.updCount d o.2.1, some (o.2.2.getD Status.ok))

/-- An update descriptor: the checks of R159, then the units. -/
def State.updDesc (s : State) (Q : Nat) (w : Desc) : State × Option Code :=
  let d := dieOfQ Q
  let x := updOf w
  if x.bad d then (s, some Status.descFieldRange)
  else if s.updIllegal d Q x (s.streamFor Q w) then (s, some Status.illegalInState)
  else if (s.die d).fenced then (s, some Status.regionFenced)
  else s.updRun d Q x (s.streamFor Q w)

/-- OPT 0; an entry with the reserved OPT fails here. -/
def execMomentumSgdUpdate (d : DieId) (q : QId) (seq : BitVec 48) (s : State) : Res :=
  answer s (runEntry s d q seq (fun x => x.cls == 4 && (x.op == 0 || x.op == 3)) (fun s Q x => s.updDesc Q x))
/-- OPT 1. -/
def execAdamUpdate (d : DieId) (q : QId) (seq : BitVec 48) (s : State) : Res :=
  answer s (runEntry s d q seq (fun x => x.cls == 4 && x.op == 1) (fun s Q x => s.updDesc Q x))
/-- OPT 2. -/
def execSignMomentumUpdate (d : DieId) (q : QId) (seq : BitVec 48) (s : State) : Res :=
  answer s (runEntry s d q seq (fun x => x.cls == 4 && x.op == 2) (fun s Q x => s.updDesc Q x))

end Sys2Proof.Machine
end

