-- ==== Sys2Proof/Machine/Mem.lean ====
section
/-! DEFINITION. Memory descriptors (R177 to R181): copies between HBM, the Vat and host memory, page assign, page
release, with the moves that sealed pages refuse (R343). -/

namespace Sys2Proof.Machine

/-! ### The descriptor (R177) -/

structure MemDesc where
  op : Nat
  srcSpace : Nat
  dstSpace : Nat
  cls : Nat
  enc : Bool
  tenant : Nat
  rows : Nat
  rowBytes : Nat
  src : Nat
  dst : Nat
  srcStride : Nat
  dstStride : Nat
  rsv : Bool
  deriving DecidableEq, Repr

def memOf (d : Desc) : MemDesc :=
  { op := fld d.w10 63 61, srcSpace := fld d.w10 60 59, dstSpace := fld d.w10 58 57, cls := fld d.w10 56 55
    enc := bitAt d.w10 54, tenant := fld d.w10 53 47, rows := fld d.w10 31 0, rowBytes := fld d.w18 63 32
    src := d.w20.toNat, dst := d.w28.toNat, srcStride := fld d.w30 63 32, dstStride := fld d.w30 31 0
    rsv := fld d.w10 46 32 != 0 || fld d.w18 31 0 != 0 || d.w38 != 0 }

/-- Bytes from the first byte of a range to its last, gaps included. -/
def MemDesc.span (x : MemDesc) (stride : Nat) : Nat := (x.rows - 1) * stride + x.rowBytes

/-- An operand lies outside its space: 0 HBM of the die, 1 the Vat, 2 host memory (DESIGN CHOICE, log 53). -/
def MemDesc.outside (x : MemDesc) (d space a stride : Nat) : Bool :=
  match space with
  | 0 => !(decide (a < 2 ^ 42) && hbmIn d a (x.span stride))
  | 1 => decide (640 * 65536 < a + x.span stride)
  | _ => decide (2 ^ 64 < a + x.span stride)

/-- Check 1 for a copy. -/
def MemDesc.copyBad (x : MemDesc) (d : Nat) : Bool :=
  x.srcSpace == 3 || x.dstSpace == 3 || (x.srcSpace == 2 && x.dstSpace == 2) || x.cls != 0 || x.enc || x.tenant != 0
  || decide (1 < x.rows) && (decide (x.srcStride < x.rowBytes) || decide (x.dstStride < x.rowBytes))
  || x.outside d x.srcSpace x.src x.srcStride || x.outside d x.dstSpace x.dst x.dstStride
  || (x.srcSpace == x.dstSpace && decide (x.src < x.dst + x.span x.dstStride)
      && decide (x.dst < x.src + x.span x.srcStride))

/-- Check 1 for an assign or a release. -/
def MemDesc.pagesBad (x : MemDesc) (d : Nat) : Bool :=
  x.srcSpace != 0 || x.dstSpace != 0 || (x.op == 2 && (x.cls != 0 || x.enc || x.tenant != 0)) || decide (64 < x.tenant)
  || x.rowBytes != 4096 || x.src != 0 || x.srcStride != 0 || x.dstStride != 0 || x.dst % 4096 != 0
  || !(decide (x.dst < 2 ^ 42) && hbmIn d x.dst (4096 * x.rows))

/-- Check 1 of R178. -/
def MemDesc.bad (x : MemDesc) (d : Nat) : Bool :=
  x.rsv || decide (2 < x.op) || x.rows == 0 || x.rowBytes == 0
  || (if x.op = 0 then x.copyBad d else x.pagesBad d)

/-- Check 2 of R178. -/
def State.memIllegal (s : State) (Q : Nat) (x : MemDesc) : Bool :=
  x.op != 0 && (s.ownerOf Q != 0
    || (x.op == 1 && ((!x.enc && (x.tenant != 0 || s.encryptAll)) || !vfOn s.vfEnable x.tenant)))

/-! ### Copies -/

/-- The Vat spans of a copy. -/
def MemDesc.spans (x : MemDesc) : List Span :=
  (if x.srcSpace = 1 then [{ base := x.src, rowBytes := x.rowBytes, stride := x.srcStride, rows := x.rows, write := false }]
   else [])
  ++ (if x.dstSpace = 1 then [{ base := x.dst, rowBytes := x.rowBytes, stride := x.dstStride, rows := x.rows, write := true }]
      else [])

/-- PF_DEBUG_READ widens the reads of tenant 0's copies (R342) (DEDUCED, log 88). -/
def State.debugRead (s : State) (t : Nat) : Bool := t == 0 && s.pfDebugRead
/-- The curds that this lets a copy read: those of any group (R168). -/
def State.debugCurds (s : State) (d t c : Nat) : Bool :=
  s.debugRead t && ((s.curdOwner d c).map (fun o => o.kind == 1)).getD false

/-- Read a row of the source. -/
def State.readRow (s : State) (d t : Nat) (x : MemDesc) (i : Nat) : State × Except Code (List Byte) :=
  let a := x.src + i * x.srcStride
  match x.srcSpace with
  | 0 => s.readHbm t (s.debugRead t) a x.rowBytes
  | 1 => (s, .ok (s.vatBytes d a x.rowBytes))
  | _ => (s, .ok (s.hostBytes t a x.rowBytes))

/-- The source pages of a row. -/
def MemDesc.srcPages (x : MemDesc) (i : Nat) : List Nat :=
  if x.srcSpace = 0 then rangePages (x.src + i * x.srcStride) x.rowBytes else []

/-- Write a row of the destination. -/
def State.writeRow (s : State) (d t : Nat) (x : MemDesc) (i : Nat) (bs : List Byte) : State × Option Code :=
  let a := x.dst + i * x.dstStride
  match x.dstSpace with
  | 0 => s.writeMoved t (x.srcSpace == 2) (x.srcPages i) a bs
  | sp =>
    if s.sealRefuses t sp (x.srcPages i) 0 then (s, some Status.illegalInState)
    else if sp = 1 then (s.storeVat d a bs, none) else (s.setHost t a bs, none)

/-- Copy the rows from `i` on; a page that fails stops the copy, and what it has written stays (R179). -/
def State.copyRows (s : State) (d t : Nat) (x : MemDesc) : Nat → Nat → State × Option Code
  | 0, _ => (s, none)
  | n + 1, i =>
    let r := s.readRow d t x i
    match r.2 with
    | .error c => (r.1, some c)
    | .ok bs =>
      let w := r.1.writeRow d t x i bs
      match w.2 with
      | some c => (w.1, some c)
      | none => w.1.copyRows d t x n (i + 1)

/-! ### Pages (R181) -/

/-- Assign one page. -/
def State.assignPage (s : State) (x : MemDesc) (p : Nat) : State × Option Code :=
  let t := s.tenant x.tenant
  if (s.tag p).assigned then (s, some Status.pageAssigned)
  else if !t.hasKey t.newest then
    (s.modDie (pageDie p) (fun y => { y with keyMissing := ctrAdd y.keyMissing 1 }), some Status.pageKeyMissing)
  else
    let s := (s.zeroPage p).soundPage p
    ((s.setTag p { owner := x.tenant, epoch := t.newest, cls := BitVec.ofNat 2 x.cls, enc := x.enc, assigned := true }).seal p,
      none)

/-- Release one page. -/
def State.releasePage (s : State) (p : Nat) : State × Option Code :=
  if (s.tag p).assigned then (((s.zeroPage p).soundPage p).setTag p {}, none)
  else (s, some Status.pageNotOwned)

/-- Every page of a run in order; the first that fails stops it. -/
def State.eachPage (s : State) (f : State → Nat → State × Option Code) : Nat → Nat → State × Option Code
  | 0, _ => (s, none)
  | n + 1, p =>
    let r := f s p
    match r.2 with
    | some c => (r.1, some c)
    | none => r.1.eachPage f n (p + 1)

/-! ### Descriptors -/

/-- The effect of a memory descriptor that has passed its checks. -/
def State.memRun (s : State) (Q : Nat) (x : MemDesc) : State × Option Code :=
  let d := dieOfQ Q
  match x.op with
  | 0 => s.copyRows d (s.ownerOf Q) x x.rows 0
  | 1 => s.eachPage (fun s p => s.assignPage x p) x.rows (pageOf x.dst)
  | _ => s.eachPage State.releasePage x.rows (pageOf x.dst)

/-- A memory descriptor: the checks of R178 in order, the read of the Vat, the work. -/
def State.memDesc (s : State) (Q : Nat) (w : Desc) : State × Option Code :=
  let d := dieOfQ Q
  let x := memOf w
  let spans := if x.op = 0 then x.spans else []
  if x.bad d then (s, some Status.descFieldRange)
  else if s.memIllegal Q x then (s, some Status.illegalInState)
  else match vatCheck (s.groupOwns d (s.bind Q).group) (s.debugCurds d (s.ownerOf Q)) spans with
  | some e => (s.violation d Q e.1 e.2, some e.1)
  | none =>
    if s.spanFenced d spans then (s, some Status.regionFenced)
    else
      let r := s.senseVat d spans
      if r.2 then (r.1, some Status.regionFenced)
      else
        let o := r.1.memRun Q x
        (o.1, some (o.2.getD Status.ok))

/-- OP 0; an entry with a reserved OP fails here. -/
def execCopy (d : DieId) (q : QId) (seq : BitVec 48) (s : State) : Res :=
  answer s (runEntry s d q seq (fun x => x.cls == 3 && (x.op == 0 || decide (3 ≤ x.op))) (fun s Q x => s.memDesc Q x))
/-- OP 1. -/
def execPageAssign (d : DieId) (q : QId) (seq : BitVec 48) (s : State) : Res :=
  answer s (runEntry s d q seq (fun x => x.cls == 3 && x.op == 1) (fun s Q x => s.memDesc Q x))
/-- OP 2. -/
def execPageRelease (d : DieId) (q : QId) (seq : BitVec 48) (s : State) : Res :=
  answer s (runEntry s d q seq (fun x => x.cls == 3 && x.op == 2) (fun s Q x => s.memDesc Q x))

end Sys2Proof.Machine
end

