-- ==== Sys2Proof/Machine/Serving.lean ====
section
/-! DEFINITION. Serving-step descriptors (R232 to R255): request contexts, KV rows, prefixes, adapters. -/

namespace Sys2Proof.Machine

/-! ### Records as a group sees them (R234) -/

def State.writeCtx (s : State) (w : Who) (i : Nat) (c : Ctx) : State :=
  s.modCtx (dkey w.d ctxPer i) (fun h => h.write w.g w.e c)
def State.pfxSeen (s : State) (w : Who) (i : Nat) : Pfx := (s.pfx (dkey w.d pfxPer i)).seen w.g
def State.writePfx (s : State) (w : Who) (i : Nat) (p : Pfx) : State :=
  s.modPfx (dkey w.d pfxPer i) (fun h => h.write w.g w.e p)
/-- Write an adapter slot's pending half. -/
def State.writeAdapter (s : State) (w : Who) (i : Nat) (a : Adapter) : State := s.modAdapter i (fun h => h.write w.g w.e a)

/-- A record's TURN is not the present TURN_COUNT (R239). -/
def State.staleTurn (s : State) (turn : BitVec 24) : Bool := turn != s.img.turnCount

/-- A context is not this descriptor's to change (check 3): another tenant's or group's, stale, pending elsewhere. -/
def State.ctxRefused (s : State) (w : Who) (i : Nat) (staleOk : Bool) : Bool :=
  let c := s.ctxSeen w i
  c.tenant != w.t || c.group != w.g || (!staleOk && s.staleTurn c.turn) || s.ctxForeign w i

/-- The generation that a context pins (R252). -/
def State.pinned (s : State) (c : Ctx) : Option Gen :=
  match c.adapter with
  | none => none
  | some (slot, num) =>
    let h := s.adapter slot
    let of := fun (a : Adapter) => a.cur.toList ++ a.old.toList
    (of h.com ++ (h.pend.map of).getD []).find? (fun x => x.num == num)

/-- The part of a generation on a die: address and pages. -/
def Gen.part (x : Gen) (d : Nat) : Nat × Nat := x.parts.getD d (0, 0)

/-! ### Batch entries: checks 1 to 3 (R255) -/

/-- Check 1 for an entry (DEDUCED, log 57). -/
def State.entryBad (s : State) (w : Who) (x : SrvDesc) (e : BatchEntry) : Bool :=
  let c := s.ctxSeen w e.ctx
  let p := s.entryPool w e
  e.rsv || spare x.rows (e.pos + e.ntok) || spare (x.rows || x.op == 11) e.vrow
  || (x.rows && (e.ntok == 0 || decide (8192 < e.ntok)))
  || (x.op == 6 && decide (2097152 < e.newLen)) || (x.op == 11 && e.bytes == 0)
  || (x.rows && c.state != 0 && decide (p.layers.toNat ≤ x.layer))
  || ((x.rows || x.op == 11) && c.state != 0 && decide (x.rowStride * 64 < p.tokenBytes.toNat))
  || ((x.rows || x.op == 11) && !(x.span p.tokenBytes.toNat e).inVat)
  || (x.op == 11 && (match s.pinned c with
    | some g => decide ((g.part w.d).2 * 4096 < e.offset + e.bytes)
    | none => false))

/-- Check 3 for an entry, on the records that the entries before it have left. -/
def State.entryRefused (s : State) (w : Who) (x : SrvDesc) (e : BatchEntry) : Bool :=
  let c := s.ctxSeen w e.ctx
  let p := s.entryPool w e
  s.ctxRefused w e.ctx (x.op == 1) || (match x.op with
    | 1 => c.state == 0
    | 2 => c.state != 1
    | 3 => c.state != 2
    | 4 => c.state != 1 || !p.usable w.d w.t || decide (c.wrEnd < e.pos + e.ntok)
    | 5 => c.state != 1 || !p.usable w.d w.t || decide (e.pos < c.len)
      || (if x.layer = 0 then decide (c.wrEnd < e.pos) || decide (c.maxLen < e.pos + e.ntok)
          else decide (c.wrEnd < e.pos + e.ntok))
    | 6 => c.state != 1 || decide (e.newLen < c.len) || decide (c.wrEnd < e.newLen)
    | _ => c.state == 0 || (s.pinned c).isNone)

/-- What an entry changes in its context (R237, R242, R243). -/
def Ctx.batch (c : Ctx) (x : SrvDesc) (e : BatchEntry) : Ctx :=
  match x.op with
  | 1 => { c with state := 0, pfx := none, adapter := none }
  | 2 => { c with state := 2 }
  | 3 => { c with state := 1 }
  | 5 => if x.layer = 0 then { c with wrEnd := e.pos + e.ntok } else c
  | 6 => { c with len := e.newLen, wrEnd := e.newLen }
  | _ => c

/-- Write an entry's change into the pending half, if there is one. -/
def State.applyBatch (s : State) (w : Who) (x : SrvDesc) (e : BatchEntry) : State :=
  let c := s.ctxSeen w e.ctx
  if c.batch x e = c then s else s.writeCtx w e.ctx (c.batch x e)

/-- Check 3 over a list: each entry against the state left by the entries before it. -/
def State.batchRefused (s : State) (w : Who) (x : SrvDesc) : List BatchEntry → Bool
  | [] => false
  | e :: es => s.entryRefused w x e || (s.applyBatch w x e).batchRefused w x es

/-! ### Moving rows (R241, R242, R252) -/

/-- The blocks of the positions of an entry, from the chain table: a code where a page fails, or where an entry names
no block (R241). -/
def State.chainBlocks (s : State) (w : Who) (c : Ctx) (p : Pool) : List Nat → State × Except Code (List Nat)
  | [] => (s, .ok [])
  | i :: is =>
    let r := s.readHbm w.t false (c.chainAddr + 4 * i) 4
    match r.2 with
    | .error k => (r.1, .error k)
    | .ok bs =>
      let b := ofLe bs
      if b = 0xFFFFFFFF ∨ p.blocks.toNat ≤ b then (r.1, .error Status.descFieldRange)
      else
        let q := r.1.chainBlocks w c p is
        match q.2 with
        | .error k => (q.1, .error k)
        | .ok rest => (q.1, .ok (b :: rest))

/-- The chain entries that an entry's positions need, ascending. -/
def chainIndexes (p : Pool) (e : BatchEntry) : List Nat :=
  let t := max 1 p.tpb.toNat
  (List.range ((e.pos + e.ntok - 1) / t + 1 - e.pos / t)).map (fun i => e.pos / t + i)

/-- Move the rows `i` on of an entry. -/
def State.moveRows (s : State) (w : Who) (x : SrvDesc) (p : Pool) (e : BatchEntry) (blocks : List Nat) :
    Nat → Nat → State × Option Code
  | 0, _ => (s, none)
  | n + 1, i =>
    let pos := e.pos + i
    let t := max 1 p.tpb.toNat
    let a := p.rowAddr (blocks.getD (pos / t - e.pos / t) 0) x.layer pos
    let v := x.vat + (e.vrow + i) * (x.rowStride * 64)
    if x.op = 4 then
      let r := s.readHbm w.t false a p.tokenBytes.toNat
      match r.2 with
      | .error k => (r.1, some k)
      | .ok bs => (r.1.storeVat w.d v bs).moveRows w x p e blocks n (i + 1)
    else
      let r := s.writeHbm w.t a (s.vatBytes w.d v p.tokenBytes.toNat)
      match r.2 with
      | some k => (r.1, some k)
      | none => r.1.moveRows w x p e blocks n (i + 1)

/-- The work of one entry before its record changes. -/
def State.entryWork (s : State) (w : Who) (x : SrvDesc) (e : BatchEntry) : State × Option Code :=
  let c := s.ctxSeen w e.ctx
  if x.rows then
    let p := s.entryPool w e
    let r := s.chainBlocks w c p (chainIndexes p e)
    match r.2 with
    | .error k => (r.1, some k)
    | .ok bs => r.1.moveRows w x p e bs e.ntok 0
  else if x.op = 11 then
    match s.pinned c with
    | none => (s, none)
    | some g =>
      let r := s.readHbm w.t false ((g.part w.d).1 + e.offset) e.bytes
      match r.2 with
      | .error k => (r.1, some k)
      | .ok bs => (r.1.storeVat w.d (x.span 0 e).base bs, none)
  else (s, none)

/-- The entries in list order; a failure leaves those before it as they are done. -/
def State.runBatch (s : State) (w : Who) (x : SrvDesc) : List BatchEntry → State × Option Code
  | [] => (s, none)
  | e :: es =>
    let r := s.entryWork w x e
    match r.2 with
    | some k => (r.1, some k)
    | none => (r.1.applyBatch w x e).runBatch w x es

/-- A batch operation after its list has been read. -/
def State.batchDesc (s : State) (Q : Nat) (w : Who) (x : SrvDesc) (es : List BatchEntry) : State × Option Code :=
  let spans := s.batchSpans w x es
  if es.any (fun e => s.entryBad w x e) || (x.rows && decide (x.budget < (es.map BatchEntry.ntok).foldl (· + ·) 0)) then
    (s, some Status.descFieldRange)
  else if x.op == 5 && es.any (fun e => decide (2097152 < e.pos + e.ntok)) then (s, some Status.seqLimit)
  else if s.img.structKind != 1 || s.batchRefused w x es then (s, some Status.illegalInState)
  else match vatCheck (s.groupOwns w.d (s.bind Q).group) noCurds spans with
  | some e => (s.violation w.d Q e.1 e.2, some e.1)
  | none =>
    if s.spanFenced w.d spans then (s, some Status.regionFenced)
    else
      let r := s.senseVat w.d spans
      if r.2 then (r.1, some Status.regionFenced)
      else
        let o := r.1.runBatch w x es
        (o.1, some (o.2.getD Status.ok))

/-! ### OPEN, PUBLISH, PREFIX_RELEASE (R237, R245 to R247) -/

/-- The records of prefix number `i` on, on a die. -/
def pfxIds : List Nat := List.range pfxPer

/-- The committed live prefix that a handle names for a tenant (R246). -/
def State.livePrefix (s : State) (w : Who) (handle : Word) : Option Nat :=
  pfxIds.find? (fun i =>
    let p := (s.pfx (dkey w.d pfxPer i)).com
    p.state == 1 && p.tenant == w.t && p.handle == handle)

/-- The adapter that an OPEN pins (R252): none is refused as `none`. -/
def State.pin (s : State) (w : Who) (x : SrvDesc) : Option (Option (Nat × Nat)) :=
  if !x.hasAdapter then some none
  else
    let a := (s.adapter x.slot).seen w.g
    match a.cur with
    | some g => if a.retiring || a.tenant != some w.t then none else some (some (x.slot, g.num))
    | none => none

/-- The prefix that an OPEN names (R246): none is refused as `none`. -/
def State.openPrefix (s : State) (w : Who) (x : SrvDesc) (ad : Option (Nat × Nat)) : Option (Option Nat) :=
  if !x.hasPrefix then some none
  else match s.livePrefix w x.handle with
  | none => none
  | some i =>
    let p := (s.pfx (dkey w.d pfxPer i)).com
    if p.pool.toNat = x.pool ∧ p.adapter = ad ∧ ¬ s.staleTurn p.turn ∧ p.len ≤ x.len then some (some i) else none

/-- Copy the chain entries of a prefix of `n` blocks from one table to another. -/
def State.copyChain (s : State) (w : Who) (src dst n : Nat) : State × Option Code :=
  let r := s.readHbm w.t false src (4 * n)
  match r.2 with
  | .error k => (r.1, some k)
  | .ok bs => r.1.writeHbm w.t dst bs

/-- OPEN. -/
def State.openDesc (s : State) (w : Who) (x : SrvDesc) : State × Option Code :=
  let p := s.kvPool w.d x.pool
  let h := s.ctx (dkey w.d ctxPer x.ctx)
  if s.img.structKind != 1 || (h.seen w.g).state != 0 || h.foreign w.g || !p.usable w.d w.t then (s, some Status.illegalInState)
  else match s.pin w x with
  | none => (s, some Status.illegalInState)
  | some ad => match s.openPrefix w x ad with
    | none => (s, some Status.illegalInState)
    | some pf =>
      let fx := pf.map (fun i => (s.pfx (dkey w.d pfxPer i)).com)
      let len := (fx.map Pfx.len).getD 0
      let r := match fx with
        | some y => s.copyChain w y.addr x.addr (y.len / max 1 p.tpb.toNat)
        | none => (s, none)
      match r.2 with
      | some k => (r.1, some k)
      | none =>
        (r.1.writeCtx w x.ctx
          { state := 1, tenant := w.t, group := w.g, cls := BitVec.ofNat 3 x.cls, turn := s.img.turnCount
            pool := BitVec.ofNat 3 x.pool, chainAddr := x.addr, maxLen := x.len, len := len, wrEnd := len, sharedLen := len
            pfx := pf, adapter := ad, statusAddr := x.statusAddr, statusHbm := x.statusHbm }, some Status.ok)

/-- A tenant's handle names a prefix record that is not free, as the group sees it. -/
def State.handleTaken (s : State) (w : Who) (handle : Word) : Bool :=
  s.pfxs.any (fun e => e.1 / pfxPer == w.d && (
    let p := e.2.seen w.g
    let q := e.2.com
    (p.state != 0 && p.tenant == w.t && p.handle == handle) || (q.state != 0 && q.tenant == w.t && q.handle == handle)))

/-- The lowest-numbered free prefix record. -/
def State.freePrefix (s : State) (w : Who) : Option Nat :=
  pfxIds.find? (fun i =>
    let h := s.pfx (dkey w.d pfxPer i)
    (h.seen w.g).state == 0 && h.com.state == 0 && !h.foreign w.g)

/-- The LEN up to which a prefix may share a context's rows (R245): its committed LEN, 0 while no request is committed there,
and never rows beyond LEN (R236). -/
def State.lenShared (s : State) (w : Who) (i : Nat) : Nat :=
  let h := s.ctx (dkey w.d ctxPer i)
  min (if h.com.state = 0 then 0 else h.com.len) (h.seen w.g).len

/-- PUBLISH. -/
def State.publishDesc (s : State) (w : Who) (x : SrvDesc) : State × Option Code :=
  let c := s.ctxSeen w x.ctx
  let p := s.kvPool w.d c.pool.toNat
  let tpb := max 1 p.tpb.toNat
  let len := x.len / tpb * tpb
  if s.img.structKind != 1 || c.state != 1 || s.ctxRefused w x.ctx false || !p.usable w.d w.t
      || decide (len < tpb) || decide (s.lenShared w x.ctx < len) || s.handleTaken w x.handle then
    (s, some Status.illegalInState)
  else match s.freePrefix w with
  | none => (s, some Status.illegalInState)
  | some i =>
    let r := s.copyChain w c.chainAddr x.addr (len / tpb)
    match r.2 with
    | some k => (r.1, some k)
    | none =>
      ((r.1.writePfx w i
        { state := 1, tenant := w.t, handle := x.handle, pool := c.pool, len := len, turn := c.turn, adapter := c.adapter
          parent := c.pfx, addr := x.addr }).writeCtx w x.ctx { c with pfx := some i, sharedLen := len }, some Status.ok)

/-- PREFIX_RELEASE. -/
def State.releasePrefix (s : State) (w : Who) (x : SrvDesc) : State × Option Code :=
  match pfxIds.find? (fun i =>
    let p := s.pfxSeen w i
    p.state == 1 && p.tenant == w.t && p.handle == x.handle) with
  | none => (s, some Status.illegalInState)
  | some i =>
    if s.img.structKind != 1 || (s.pfx (dkey w.d pfxPer i)).foreign w.g then (s, some Status.illegalInState)
    else (s.writePfx w i { s.pfxSeen w i with state := 2 }, some Status.ok)

/-! ### Adapters (R250 to R252) -/

/-- The generation number after the slot's last one. -/
def nextGen (last : Nat) : Nat := if last = 65535 then 1 else last + 1

/-- A slot is another tenant's, or pending under another group. -/
def State.slotRefused (s : State) (w : Who) (i : Nat) : Bool :=
  let h := s.adapter i
  let a := h.seen w.g
  h.foreign w.g || (a.tenant.isSome && a.tenant != some w.t)

/-- INSTALL on a slot. -/
def Adapter.install (a : Adapter) (t : Nat) (parts : List (Nat × Nat)) : Adapter :=
  let n := nextGen a.lastNum
  { a with tenant := some t, cur := some { num := n, parts := parts }, old := a.cur, lastNum := n }

/-- ADAPTER_INSTALL, after its record has been read. -/
def State.installDesc (s : State) (w : Who) (x : SrvDesc) (bs : List Byte) : State × Option Code :=
  let a := (s.adapter x.slot).seen w.g
  if installBad bs then (s, some Status.descFieldRange)
  else if s.img.structKind != 1 || s.slotRefused w x.slot || a.old.isSome then (s, some Status.illegalInState)
  else (s.writeAdapter w x.slot (a.install w.t (installParts bs)), some Status.ok)

/-- ADAPTER_RETIRE. -/
def State.retireDesc (s : State) (w : Who) (x : SrvDesc) : State × Option Code :=
  let a := (s.adapter x.slot).seen w.g
  if s.img.structKind != 1 || s.slotRefused w x.slot || a.cur.isNone || a.old.isSome then (s, some Status.illegalInState)
  else (s.writeAdapter w x.slot { a with cur := none, old := a.cur, retiring := true }, some Status.ok)

/-! ### The rows -/

/-- The chain table that an OPEN or a PUBLISH names reaches outside HBM of the die (R174): a context's table holds
ceil(MAX_LEN / TPB) entries (R241), a prefix's L / TPB (R245). -/
def State.tableOut (s : State) (w : Who) (x : SrvDesc) : Bool :=
  let out := fun (tpb entries : Nat) => tpb != 0 && !hbmIn w.d x.addr (4 * entries)
  match x.op with
  | 0 =>
    let n := (s.kvPool w.d x.pool).tpb.toNat
    out n (ceilDiv x.len n)
  | 7 =>
    let n := (s.kvPool w.d (s.ctxSeen w x.ctx).pool.toNat).tpb.toNat
    (s.ctxSeen w x.ctx).state != 0 && out n (x.len / n)
  | _ => false

/-- A serving-step descriptor: the list or record is read first, then the checks of R255 in order. -/
def State.srvDesc (s : State) (Q : Nat) (y : Desc) : State × Option Code :=
  let d := dieOfQ Q
  let w := s.whoOf Q y
  let x := srvOf y
  let n := if x.batch then 16 * x.count else if x.op = 9 then 64 else 0
  if n != 0 && !hbmIn d x.addr n then (s, some Status.descFieldRange)
  else
    let r := s.readHbm w.t false x.addr n
    match r.2 with
    | .error k => (r.1, some k)
    | .ok bs =>
      let s := r.1
      if x.bad d || s.tableOut w x then (s, some Status.descFieldRange)
      else match x.op with
      | 0 => s.openDesc w x
      | 7 => s.publishDesc w x
      | 8 => s.releasePrefix w x
      | 9 => s.installDesc w x bs
      | 10 => s.retireDesc w x
      | _ => s.batchDesc Q w x (batchList x.op x.count bs)

/-- Run a serving-step descriptor of one operation. -/
def runServing (s : State) (d : DieId) (q : QId) (seq : BitVec 48) (row : Nat → Bool) : State :=
  runEntry s d q seq (fun x => x.cls == 6 && row x.op) (fun s Q x => s.srvDesc Q x)

/-- OP 0; an entry with a reserved OP fails here. -/
def execOpenCtx (d : DieId) (q : QId) (seq : BitVec 48) (s : State) : Res :=
  answer s (runServing s d q seq (fun o => o == 0 || decide (12 ≤ o)))
def execCloseCtx (d : DieId) (q : QId) (seq : BitVec 48) (s : State) : Res := answer s (runServing s d q seq (· == 1))
def execPauseCtx (d : DieId) (q : QId) (seq : BitVec 48) (s : State) : Res := answer s (runServing s d q seq (· == 2))
def execResumeCtx (d : DieId) (q : QId) (seq : BitVec 48) (s : State) : Res := answer s (runServing s d q seq (· == 3))
def execGather (d : DieId) (q : QId) (seq : BitVec 48) (s : State) : Res := answer s (runServing s d q seq (· == 4))
def execAppend (d : DieId) (q : QId) (seq : BitVec 48) (s : State) : Res := answer s (runServing s d q seq (· == 5))
def execAdvance (d : DieId) (q : QId) (seq : BitVec 48) (s : State) : Res := answer s (runServing s d q seq (· == 6))
def execPublish (d : DieId) (q : QId) (seq : BitVec 48) (s : State) : Res := answer s (runServing s d q seq (· == 7))
def execPrefixRelease (d : DieId) (q : QId) (seq : BitVec 48) (s : State) : Res := answer s (runServing s d q seq (· == 8))
def execAdapterInstall (d : DieId) (q : QId) (seq : BitVec 48) (s : State) : Res := answer s (runServing s d q seq (· == 9))
def execAdapterRetire (d : DieId) (q : QId) (seq : BitVec 48) (s : State) : Res := answer s (runServing s d q seq (· == 10))
def execAdapterFetch (d : DieId) (q : QId) (seq : BitVec 48) (s : State) : Res := answer s (runServing s d q seq (· == 11))

end Sys2Proof.Machine
end

