-- ==== Sys2Proof/Machine/Learning.lean ====
section
/-! DEFINITION. Stream-control descriptors (R263 to R271): random-stream slots and the learning record. -/

namespace Sys2Proof.Machine

/-! ### The descriptor (R269) -/

structure StreamDesc where
  op : Nat
  slot : Nat
  count : Nat
  purpose : Nat
  layer : Nat
  w18 : Word
  w20 : Word
  w28 : Word
  rsv : Bool
  deriving DecidableEq, Repr

def streamOf (d : Desc) : StreamDesc :=
  { op := fld d.w10 63 60, slot := fld d.w10 59 49, count := fld d.w10 48 37, purpose := fld d.w10 36 21
    layer := fld d.w10 20 5, w18 := d.w18, w20 := d.w20, w28 := d.w28
    rsv := fld d.w10 4 0 != 0 || d.w30 != 0 || d.w38 != 0 }

def StreamDesc.sps (x : StreamDesc) : Nat := fld x.w18 63 32
def StreamDesc.spm (x : StreamDesc) : Nat := fld x.w18 31 0
def StreamDesc.seqStart (x : StreamDesc) : Nat := fld x.w20 63 42
def StreamDesc.seqLen (x : StreamDesc) : Nat := fld x.w20 41 20

/-- The operation sets slots. -/
def StreamDesc.slots (x : StreamDesc) : Bool := x.op != 1

/-- The slot numbers named. -/
def StreamDesc.slotIds (x : StreamDesc) : List Nat := (List.range x.count).map (fun i => x.slot + i)

/-- SET_DATA breaks its requirement of R270. -/
def StreamDesc.dataBad (x : StreamDesc) : Bool :=
  x.sps == 0 || x.spm == 0 || x.sps % x.spm != 0 || decide (65536 < x.sps / x.spm) || x.w20.toNat % x.spm != 0
  || decide (2 ^ 32 - 1 < x.w20.toNat / x.sps)

/-- Check 1 of R271. -/
def StreamDesc.bad (x : StreamDesc) : Bool :=
  x.rsv || decide (4 < x.op) || spare x.slots (x.slot + x.count) || spare (x.op == 0) x.purpose
  || spare (x.op == 3 || x.op == 4) x.layer || spare (x.op == 1) x.w18.toNat || spare (x.op == 0) x.w28.toNat
  || (x.slots && (x.count == 0 || decide (2048 < x.slot + x.count)))
  || (match x.op with
    | 0 => false
    | 1 => x.dataBad
    | 2 => x.seqLen == 0 || decide (2097152 < x.seqLen) || decide (2097151 < x.seqStart) || fld x.w20 19 0 != 0
    | 3 => x.w20 != 0
    | _ => fld x.w20 15 0 != 0)

/-! ### State -/

/-- The learning record as a group sees it. -/
def State.learnSeen (s : State) (d g : Nat) : Learn := (s.die d).learn.seen g

/-- Check 3 for one slot: pending under another group; for an operation that needs it keyed, not keyed, or another
tenant's. -/
def State.slotBad (s : State) (d g t : Nat) (needKey : Bool) (i : Nat) : Bool :=
  let h := s.stream (dkey d 2048 i)
  let x := h.seen g
  h.foreign g || (needKey && !x.keyed) || (x.keyed && x.tenant != t)

/-- Check 3 of R271. -/
def State.streamIllegal (s : State) (d g t : Nat) (x : StreamDesc) : Bool :=
  let l := s.learnSeen d g
  (x.slots && x.slotIds.any (fun i => s.slotBad d g t (x.op != 0) i))
  || ((x.op == 1 || x.op == 2) && (s.die d).learn.foreign g)
  || (x.op == 2 && (l.sps == 0 || decide (2 ^ 32 - 1 < l.pos.toNat / l.sps.toNat)))

/-- The counter position that a data position gives (R268): step and microbatch. -/
def counterOf (pos sps spm : Nat) : Nat × Nat := (pos / sps, pos % sps / spm)

/-- What an operation makes of a slot (R270). -/
def StreamDesc.apply (x : StreamDesc) (t : Nat) (l : Learn) (y : Stream) : Stream :=
  match x.op with
  | 0 => { key := BitVec.ofNat 128 (x.w28.toNat * 2 ^ 64 + x.w20.toNat), purpose := BitVec.ofNat 16 x.purpose, step := 0,
           microbatch := 0, layer := 0, tenant := t, keyed := true, bound := false }
  | 2 =>
    let c := counterOf l.pos.toNat l.sps.toNat l.spm.toNat
    { y with step := BitVec.ofNat 32 c.1, microbatch := BitVec.ofNat 16 c.2, layer := 0, tenant := t, bound := true }
  | 3 => { y with layer := BitVec.ofNat 16 x.layer, tenant := t }
  | _ => { y with step := BitVec.ofNat 32 (fld x.w20 63 32), microbatch := BitVec.ofNat 16 (fld x.w20 31 16),
                  layer := BitVec.ofNat 16 x.layer, tenant := t, bound := false }

/-- Write the slots named, in their pending halves (R266). -/
def State.writeSlots (s : State) (w : Who) (x : StreamDesc) (l : Learn) : State :=
  x.slotIds.foldl (fun s i => s.modStream (dkey w.d streamPer i) (fun h => h.write w.g w.e (x.apply w.t l (h.seen w.g)))) s

/-- Write the learning record's pending half. -/
def State.writeLearn (s : State) (w : Who) (l : Learn) : State :=
  s.modDie w.d (fun y => { y with learn := y.learn.write w.g w.e l })

/-- The operations (R270). -/
def State.streamRun (s : State) (w : Who) (x : StreamDesc) : State :=
  let l := s.learnSeen w.d w.g
  match x.op with
  | 1 => s.writeLearn w { pos := x.w20, sps := BitVec.ofNat 32 x.sps, spm := BitVec.ofNat 32 x.spm, valid := true }
  | 2 => (s.writeSlots w x l).writeLearn w { l with pos := l.pos + BitVec.ofNat 64 l.spm.toNat }
  | _ => s.writeSlots w x l

/-- A stream-control descriptor: the checks of R271 in order. -/
def State.streamDesc (s : State) (Q : Nat) (y : Desc) : State × Option Code :=
  let w := s.whoOf Q y
  let x := streamOf y
  if x.bad then (s, some Status.descFieldRange)
  else if x.op == 2 && decide (2097152 < x.seqStart + x.seqLen) then (s, some Status.seqLimit)
  else if s.streamIllegal w.d w.g w.t x then (s, some Status.illegalInState)
  else (s.streamRun w x, some Status.ok)

def runStream (s : State) (d : DieId) (q : QId) (seq : BitVec 48) (row : Nat → Bool) : State :=
  runEntry s d q seq (fun x => x.cls == 9 && row x.op) (fun s Q x => s.streamDesc Q x)

/-- OP 0; an entry with a reserved OP fails here. -/
def execSetKey (d : DieId) (q : QId) (seq : BitVec 48) (s : State) : Res :=
  answer s (runStream s d q seq (fun o => o == 0 || decide (5 ≤ o)))
def execSetData (d : DieId) (q : QId) (seq : BitVec 48) (s : State) : Res := answer s (runStream s d q seq (· == 1))
def execBeginMb (d : DieId) (q : QId) (seq : BitVec 48) (s : State) : Res := answer s (runStream s d q seq (· == 2))
def execSetLayer (d : DieId) (q : QId) (seq : BitVec 48) (s : State) : Res := answer s (runStream s d q seq (· == 3))
def execSetCounter (d : DieId) (q : QId) (seq : BitVec 48) (s : State) : Res := answer s (runStream s d q seq (· == 4))

end Sys2Proof.Machine
end

