-- ==== Sys2Proof/Machine/Links.lean ====
section
/-! DEFINITION. Ports and frames: training (R279, R312, R313), the frame sent next (R283, R285), the frames received
(R280, R288, R291 to R293, R304), damaged frames and exhausted replay (R286, R287, R281). -/

namespace Sys2Proof.Machine

/-! ### Training (R279) -/

/-- Opposite torus roles: 1 and 2 for X, 3 and 4 for Y, 5 and 6 for Z. -/
def oppositeRole (r : Nat) : Nat := if r % 2 = 1 then r + 1 else r - 1

/-- A coordinate one step up or down a dimension of `n` places, wrapping. -/
def stepPos (n i : Nat) (up : Bool) : Nat := if up then (i + 1) % n else (i + n - 1) % n

/-- The neighbour's coordinate in the direction of a torus role. -/
def Coord.neighbour (c : Coord) (r : Nat) : Nat × Nat × Nat :=
  let k := (r - 1) / 2
  let up := r % 2 == 1
  let at' := fun j => if j = k then stepPos (c.size j) (c.pos j) up else c.pos j
  (at' 0, at' 1, at' 2)

/-- The exchange of identities finds the right peer for a role: the port becomes up. -/
def peerFits (c : Coord) (role : Nat) (peer : PeerId) : Bool :=
  let o := coordOfRec peer.coord
  let at' := (o.x, o.y, o.z)
  if decide (1 ≤ role) && decide (role ≤ 6) then
    peer.role.toNat == oppositeRole role && at' == c.neighbour role
  else if role = 7 then peer.role == 7 && at' == (c.x, c.y, c.z) && o.side != c.side
  else if role = 8 then peer.role == 8
  else if role = 9 then peer.role == 9
  else false

/-- The receive buffers of the peer when a port comes up: 64 for each VC and class (R285). -/
def fullCredit : SMap Nat := (List.range 8).map (fun k => (k, 64))

/-- NOT_INDEPENDENT for a partner's feed identity while the mirror port is up (R312). -/
def feedsDepend (mine partner : BitVec 8) : Bool := mine == partner || mine == 0 || partner == 0

/-- The port has come up: what was lost in its last exit from up is told on (R287). -/
def State.resendLost (s : State) (p : Nat) : State :=
  let x := s.port p
  let s := s.modPort p (fun x => { x with lostShards := [], lostMarkers := [] })
  let s := x.lostShards.foldl (fun s l => s.sendOut p localOrigin (p / 2)
    { typ := 2, vc := 1, dateline := false, tenant := l.tenant, epoch := s.linkEpoch l.tenant.toNat, last := false
      raised := false, w1 := l.w1, w2 := 0, payload := [] }) s
  x.lostMarkers.foldl (fun s f => s.sendOut p localOrigin (p / 2) f) s

/-- The feed identities are exchanged when the mirror port comes up (R312, R313): NOT_INDEPENDENT read 0 while it was
down. -/
def State.exchangeFeeds (s : State) (feed : BitVec 8) : State :=
  { s with pair := { s.pair with partnerFeed := feed } }.raiseIf (feedsDepend s.power.feedId feed) 0 srcNotIndependent

/-- Training of a port has ended (R279): it becomes up, or miswired. -/
def State.trained (s : State) (p : Nat) (peer : PeerId) : State :=
  let role := s.role p
  if peerFits s.coord role peer then
    let s := s.modPort p (fun x => { x with
      state := .up, peer := some peer, credit := fullCredit, freed := [], txSeq := 0, rxSeq := 0, nakDue := false })
    let s := s.resendLost p
    if role = 7 then s.exchangeFeeds peer.feed else s
  else
    (s.modPort p (fun x => { x with state := .miswired, peer := some peer })).raise (p / 2) (srcPortMiswired p)

/-- PORT_TRAINING_DONE: on a port that trains, or on a miswired one whose cabling has changed. Otherwise no training
ends, and nothing happens (log 8). -/
def State.portTrained (s : State) (p : Nat) (peer : PeerId) : State :=
  if s.restState p ≠ .training then s
  else match (s.port p).state with
    | .training => s.trained p peer
    | .miswired => if (s.port p).peer = some peer then s else s.trained p peer
    | _ => s

def execPortTrainingDone (p : PortId) (peer : PeerId) (s : State) : Res := answer s (s.portTrained p.val peer)

/-- TRAINING_RETRY: the device tries again to train a port whose peer has not answered (R279). -/
def State.retryTraining (s : State) (p : Nat) : State :=
  match (s.port p).state with
  | .training => s.settlePort p
  | .down => s.settlePort p
  | _ => s

def execTrainingRetry (p : PortId) (s : State) : Res := answer s (s.retryTraining p.val)

/-! ### Sending -/

/-- FRAME_SEND: one handshake of the port (R285, R286), which its counter block counts (R40). -/
def State.frameSend (s : State) (p : Nat) : State :=
  if (s.port p).sends then (s.modPort p Port.send).countHandshake (dkey (p / 2) 134 (132 + p % 2)) else s

def execFrameSend (p : PortId) (s : State) : Res := answer s (s.frameSend p.val)

/-! ### Receiving -/

/-- SHARD_FRAME_RX (R290 to R293). -/
def execShardFrameRx (p : PortId) (h : LinkHdr) (f : Frame) (s : State) : Res :=
  answer s (s.receive p.val h { f with typ := 1 } (fun s => s.shardFrameIn p.val { f with typ := 1 }))

/-- ABSENT_MARKER_RX (R290 to R293). -/
def execAbsentMarkerRx (p : PortId) (h : LinkHdr) (f : Frame) (s : State) : Res :=
  answer s (s.receive p.val h { f with typ := 2 } (fun s => s.shardFrameIn p.val { f with typ := 2 }))

/-- JOB_FRAME_RX (R288, R290, R299 to R304). -/
def execJobFrameRx (p : PortId) (h : LinkHdr) (f : Frame) (s : State) : Res :=
  answer s (s.receive p.val h { f with typ := 3 } (fun s => s.jobFrameIn p.val { f with typ := 3 }))

/-- An idle frame that the port accepted or found stale: every role carries its link-level fields, and nothing else is
in it (R284, R286). -/
def State.idleIn (s : State) (p : Nat) (h : LinkHdr) : State :=
  match (s.port p).state with
  | .up => (s.linkIn p h).1
  | .training => s.stale p
  | .miswired => s.stale p
  | _ => s

/-- IDLE_FRAME_RX. -/
def execIdleFrameRx (p : PortId) (h : LinkHdr) (s : State) : Res := answer s (s.idleIn p.val h)

/-- A frame whose CRC fails (R286): counted and answered by a NAK; on a port that is not up it is stale (R280). -/
def State.badCrc (s : State) (p : Nat) : State :=
  match (s.port p).state with
  | .up => s.modPort p (fun x => { x with crcCount := ctrAdd x.crcCount 1, nakDue := true })
  | .training => s.stale p
  | .miswired => s.stale p
  | _ => s

/-- BAD_CRC_FRAME_RECEIVED. -/
def execBadCrcFrameReceived (p : PortId) (s : State) : Res := answer s (s.badCrc p.val)

/-! ### Replay exhausted -/

/-- REPLAY_EXHAUSTED: only where a frame has been sent REPLAY_LIMIT + 1 times (R286). -/
def execReplayExhausted (p : PortId) (s : State) : Res :=
  answer s (if (s.port p.val).state = .up ∧ (s.port p.val).atLimit then s.exhaust p.val else s)

/-- The jobs with a bucket in progress that both of two dies have posted. -/
def State.jobsAcross (s : State) (a b : Nat) : List Nat :=
  ((s.buckets.filter (fun x => !x.2.formed && x.2.entries.any (fun e => e.die.val == a) && x.2.entries.any (fun e => e.die.val == b))).map
    (fun x => x.1 / 2 ^ 24)).eraseDups

/-- D2D_REPLAY_EXHAUSTED: both dies see the interface as down, and the jobs whose sums cross it are lost (R281, R287; log 129). A
die has no interface to itself. -/
def State.d2dExhausted (s : State) (a b : Nat) : State :=
  if a = b then s
  else (s.jobsAcross a b).foldl State.jobLost
    ((s.modDie a (fun x => { x with d2dDown := x.d2dDown ||| (1 <<< b) })).modDie b
      (fun x => { x with d2dDown := x.d2dDown ||| (1 <<< a) }))

def execD2dReplayExhausted (a b : DieId) (s : State) : Res := answer s (s.d2dExhausted a.val b.val)

end Sys2Proof.Machine
end

