-- ==== Sys2Proof/Machine/Collective.lean ====
section
/-! DEFINITION. Collective descriptors (R297, R302 to R306): checks, the capture of SRC, the start of a bucket, the
completion of buckets in order, and LNK_JOB_RESET. -/

namespace Sys2Proof.Machine

/-! ### The entry (R305) -/

/-- WIRE breaks R305 or R127. -/
def Plan.wireBad (pl : Plan) : Bool :=
  let c := pl.conv
  c.bad1 false || c.rule != 0 || c.rnd != 0
  || !(if c.fmt = 0 ∨ c.fmt = 2 then c.blk == 0
       else (c.fmt == 3 || c.fmt == 4) && decide (1 ≤ c.blk) && decide (c.blk ≤ 4))

/-- Two byte ranges of one space meet. -/
def bytesMeet (a n b m : Nat) : Bool := n != 0 && m != 0 && decide (a < b + m) && decide (b < a + n)

/-- Check 1 of R306. -/
def collBad (pl : Plan) (c : Coord) (d : Nat) (x : Desc) : Bool :=
  let sb := pl.srcBytes c d
  let db := pl.dstBytes c d
  let src := srcSpan pl c d x
  let dst := dstSpan pl c d x
  let stg := stageSpan x
  decide (3 < pl.op) || !pl.mask.testBit d || fld x.w10 40 32 != 0
  || !(pl.src == 0 || pl.src == 2) || !(pl.dst == 0 || pl.dst == 2) || pl.wireBad || (pl.ring && pl.conv.blk != 0)
  || pl.count == 0 || (pl.op == 3 && x.w28 != 0)
  || stageBase x % 65536 != 0 || decide (stageCurds x < 2) || decide (640 < stageCurds x) || fld x.w30 27 0 != 0 || x.w38 != 0
  || (src ++ dst ++ stg).any (fun y => !y.inVat)
  || (pl.srcVat && decide (640 * 65536 ≤ x.w20.toNat)) || (pl.dstVat && pl.op != 3 && decide (640 * 65536 ≤ x.w28.toNat))
  || (!pl.srcVat && !(decide (x.w20.toNat < 2 ^ 42) && hbmIn d x.w20.toNat sb))
  || (!pl.dstVat && pl.op != 3 && !(decide (x.w28.toNat < 2 ^ 42) && hbmIn d x.w28.toNat db))
  || (!pl.srcVat && !pl.dstVat && bytesMeet x.w20.toNat sb x.w28.toNat db)
  || src.any (fun y => dst.any y.overlaps) || stg.any (fun y => (src ++ dst).any y.overlaps)

/-! ### The state that an entry needs -/

/-- A dimension of DIMS whose DIM is not 0 has no port (R306). -/
def State.noPort (s : State) (pl : Plan) : Bool :=
  [0, 1, 2].any (fun k => pl.dims.testBit k && decide (1 < s.coord.size k)
    && (s.portOfRole (2 * k + 1)).isNone && (s.portOfRole (2 * k + 2)).isNone)

/-- A bucket of the job has been started on the die (R303; DEDUCED, log 59). -/
def State.bucketStarted (s : State) (K d : Nat) : Bool := (s.bucket K).entries.any (fun e => e.die.val == d)

/-- Check 2 of R306. HIST_VALID is read as the queue's group sees it: a PROBE of the interval admits the entries after it, and a
cold restore that is pending refuses them (R302, R324; DEDUCED, log 43). -/
def State.collIllegal (s : State) (d Q : Nat) (pl : Plan) : Bool :=
  let g := groupOf s Q
  let h := s.job (dkey d 4096 pl.job)
  let r := h.seen g
  (pl.ring && !s.ringOn d) || !s.fmtOn d pl.src || !s.fmtOn d pl.dst || convOff (s.formats d) pl.conv || s.noPort pl
  || h.foreign g || h.pend.any (fun p => p.tenant != s.ownerOf Q)
  || decide (2 ^ 23 ≤ bucketAhead r.nextBucket.toNat pl.bucket) || s.bucketStarted (bucketKey pl.job pl.bucket) d
  || r.run.toNat != pl.run || (pl.conv.blk != 0 && !r.histValid && pl.op != 3)

/-- What a curd must be for an entry (check 3): of the queue's group for SRC and DST, a link's with WRITE for staging
(DEDUCED, log 60). -/
def State.collCurd (s : State) (d Q : Nat) (xs stg : List Span) : Option (Code × Nat) :=
  let own := s.groupOwns d (s.bind Q).group
  let link := fun c => match s.curdOwner d c with
    | some o => if o.kind = 3 then some o else none
    | none => none
  allCurds.findSome? (fun c =>
    ((curdCode own noCurds xs c).or (curdCode link noCurds stg c)).map (fun k => (k, c)))

/-! ### Reading SRC -/

/-- The bytes of SRC. -/
def State.readSrc (s : State) (d Q : Nat) (pl : Plan) (x : Desc) : State × Except Code (List Byte) :=
  let n := pl.srcBytes s.coord d
  if pl.srcVat then (s, .ok (s.vatBytes d x.w20.toNat n))
  else
    let r := s.reachOpen (s.ownerOf Q) (rangePages x.w20.toNat n)
    match r.2 with
    | some c => (r.1, .error c)
    | none => (r.1, .ok (r.1.hbmBytes x.w20.toNat n))

/-- What an entry contributes: binary32 values, to which bfloat16 converts exactly (R299), or for an ALLGATHER the
encodings themselves. -/
def Plan.contribution (pl : Plan) (n : Nat) (bs : List Byte) : List (BitVec 32) :=
  let rd := fun i => bs.getD i 0
  let es := (List.range n).map (fun j => elemAt rd pl.srcFmt 0 j)
  es.map (fun e => BitVec.ofNat 32 (if pl.op ≠ 2 ∧ pl.src = 2 then e * 65536 else e))

/-! ### Posting -/

/-- Enter the entry of a die in its bucket, and begin once every member die of the package has posted (R297) and
the dies reach one another (R281). -/
def State.postEntry (s : State) (d : DieId) (Q seq : Nat) (x : Desc) (pl : Plan) (vs : List (BitVec 32)) : State :=
  let K := bucketKey pl.job pl.bucket
  let s := s.modBucket K (fun b => { b with entries := b.entries ++
    [{ die := d, queue := Q, seq := seq, desc := x, src := vs, formed := none }] })
  if !(s.bucket K).ready && pl.dies.all (fun e => s.bucketStarted K e)
      && pl.dies.all (fun a => pl.dies.all (fun b => s.crosses a b)) then (s.startBucket K pl).goBucket K pl
  else s

/-- The entry has been posted already and waits for the other members. -/
def State.posted (s : State) (K Q seq : Nat) : Bool := (s.bucket K).entries.any (fun e => e.queue == Q && e.seq == seq)

/-- A collective entry: the checks of R306 in order; then it waits until its bucket completes. -/
def State.collDesc (s : State) (d : DieId) (seq Q : Nat) (x : Desc) : State × Option Code :=
  let pl := planOf x
  let c := s.coord
  let g := groupOf s Q
  let xs := srcSpan pl c d.val x ++ dstSpan pl c d.val x
  if s.posted (bucketKey pl.job pl.bucket) Q seq then (s, none)
  else if collBad pl c d.val x then (s, some Status.descFieldRange)
  else if s.collIllegal d.val Q pl then (s, some Status.illegalInState)
  else if 64 ≤ bucketAhead ((s.job (dkey d.val 4096 pl.job)).seen g).nextBucket.toNat pl.bucket then (s, none)
  else match s.collCurd d.val Q xs (stageSpan x) with
  | some e => (s.violation d.val Q e.1 e.2, some e.1)
  | none =>
    if s.spanFenced d.val (xs ++ stageSpan x) then (s, some Status.regionFenced)
    else
      let r := s.senseVat d.val xs
      if r.2 then (r.1, some Status.regionFenced)
      else
        let b := r.1.readSrc d.val Q pl x
        match b.2 with
        | .error k => (b.1, some k)
        | .ok bs => (b.1.postEntry d Q seq x pl (pl.contribution (pl.srcElems c d.val) bs), none)

def runColl (s : State) (d : DieId) (q : QId) (seq : BitVec 48) (row : Nat → Bool) : State :=
  runEntry s d q seq (fun x => x.cls == 7 && row x.op) (fun s Q x => s.collDesc d seq.toNat Q x)

/-- OP 0; an entry with a reserved OP fails here. -/
def execReduceScatter (d : DieId) (q : QId) (seq : BitVec 48) (s : State) : Res :=
  answer s (runColl s d q seq (fun o => o == 0 || decide (4 ≤ o)))
def execAllreduce (d : DieId) (q : QId) (seq : BitVec 48) (s : State) : Res := answer s (runColl s d q seq (· == 1))
def execAllgather (d : DieId) (q : QId) (seq : BitVec 48) (s : State) : Res := answer s (runColl s d q seq (· == 2))
def execProbe (d : DieId) (q : QId) (seq : BitVec 48) (s : State) : Res := answer s (runColl s d q seq (· == 3))

/-! ### Completion in bucket order (R303, R304) -/

/-- The job record after a bucket (R300, R302, R304): an ALLGATHER has no run code (DEDUCED, log 58). -/
def Job.after (r : Job) (t op : Nat) (h : BitVec 8) : Job :=
  let r := { r with tenant := t, nextBucket := r.nextBucket + 1 }
  if op = 2 then r
  else { r with hist := BitVec.ofNat 32 (r.hist.toNat * 256 + h.toNat), histValid := true }

/-- The entry of a die in a bucket whose results have formed and which is still started. -/
def State.formedEntry (s : State) (K d : Nat) : Option (BucketEntry × Code) :=
  (s.bucket K).entries.findSome? (fun e =>
    match e.formed with
    | some c => if e.die.val = d ∧ ((s.queue e.queue).entry e.seq).any (fun y => y.stat == .started) then some (e, c) else none
    | none => none)

/-- Take a die's entry out of a bucket; a bucket without entries is gone. -/
def State.leaveBucket (s : State) (K d : Nat) : State :=
  s.modBucket K (fun b => let b := b.without (fun e => e.die.val == d); if b.entries.isEmpty then {} else b)

/-- BUCKET_COMPLETE: the bucket that is next completes on a die. -/
def State.bucketComplete (s : State) (d j : Nat) : State :=
  let K := bucketKey j (s.jobNow d j).nextBucket.toNat
  match s.formedEntry K d with
  | none => s
  | some (e, c) =>
    let h := (s.bucket K).code
    let s := (s.endEntry e.queue e.seq c).leaveBucket K d
    if c = Status.ok then
      (s.modJob (dkey d 4096 j) (fun r =>
        r.write (groupOf s e.queue) (e.queue, e.seq) ((r.seen (groupOf s e.queue)).after (s.ownerOf e.queue) (planOf e.desc).op h))).raise d (srcJob j)
    else s

def execBucketComplete (d : DieId) (job : BitVec 12) (s : State) : Res := answer s (s.bucketComplete d.val job.toNat)

/-! ### LNK_JOB_RESET (R304) -/

/-- An entry of a job is started on a die. -/
def State.jobRuns (s : State) (d j : Nat) : Bool :=
  (s.queuesOf d).any (fun Q => (s.queue Q).entries.any (fun e =>
    e.stat == .started && e.desc.cls == 7 && e.desc.job == j))

/-- A new RUN in a record. -/
def Halves.setRun (h : Halves Job) (run : BitVec 8) : Halves Job := h.both (fun r => { r with run := run })

/-- Discard what a die has in flight of a job: its entries, and the frames that came early under another RUN. The other dies keep
theirs. -/
def State.dropJob (s : State) (d j run : Nat) : State :=
  { s with buckets := SMap.mapAll {} (fun K b =>
      if K / 2 ^ 24 = j then
        let b := b.without (fun e => e.die.val == d)
        if b.entries.isEmpty then { b with inbox := b.inbox.filter (fun x => fld x.2.w1 27 20 == run) } else b
      else b) s.buckets }

/-- A write of LNK_JOB_RESET. -/
def State.jobReset (s : State) (d : Nat) (v : Word) : State :=
  let j := fld v 11 0
  if bitAt v 12 && !s.jobRuns d j then
    ((s.dropJob d j (fld v 20 13)).modJob (dkey d 4096 j) (fun h => h.setRun (BitVec.ofNat 8 (fld v 20 13)))).modJobFlags (dkey d 4096 j)
      (fun x => { x with lost := false })
  else s

def execJobGo (d : DieId) (v : Word) (s : State) : Res := answer s (s.whenReady (s.jobReset d.val v))

end Sys2Proof.Machine
end

