-- ==== Sys2Proof/Machine/Commit.lean ====
section
/-! DEFINITION. Commit entries and commits (R202 to R205), with the effects that the owning chapters attach to them:
token commits (R235), step commits (R272 to R274) and the commit of a restore (R326). -/

namespace Sys2Proof.Machine

/-! ### The commit entry (R202, R272) -/

def Desc.tag (x : Desc) : Word := x.w18
def Desc.banks (x : Desc) : BitVec 16 := BitVec.ofNat 16 (fld x.w10 15 0)
def Desc.dataPos (x : Desc) : Word := x.w20
def Desc.replay (x : Desc) : Bool := bitAt x.w28 0

/-- The entry breaks R193 or R202, or its KIND-specific words are not those its owning chapter allows. -/
def Desc.badCommit (x : Desc) : Bool :=
  x.badHeader || x.op == 3 || fld x.w10 61 16 != 0 || (x.op != 2 && x.banks != 0)
  || (if x.op = 2 then fld x.w28 63 1 != 0 || x.w30 != 0 || x.w38 != 0
      else x.w20 != 0 || x.w28 != 0 || x.w30 != 0 || x.w38 != 0)

/-- Two members' entries differ in what R203 and R273 compare. -/
def Desc.commitDiffers (x y : Desc) : Bool :=
  x.op != y.op || x.tag != y.tag || x.banks != y.banks
  || (x.op == 2 && (x.dataPos != y.dataPos || x.replay != y.replay))

/-! ### The members of a commit -/

/-- A queue works jointly with the partner's (R206). -/
def State.joint (s : State) (Q : Nat) : Bool := (s.queue Q).paired && !(s.queue Q).solo

/-- Side 1 holds the queue halted after a partner timeout (R206). -/
def State.pairHalt (s : State) (Q : Nat) : Bool :=
  s.joint Q && (s.queue Q).halted && (s.queue Q).haltCode == Status.pairDegraded

/-- Every member has started a commit entry, and every partner member has too (R203 step 2). -/
def State.commitReady (s : State) (g : Nat) : Bool :=
  !(members s g).isEmpty
  && (members s g).all (fun Q => match (s.queue Q).commitEntry with
    | some e => !s.pairHalt Q && (!s.joint Q || SMap.get 0 s.pair.start Q == e.seq)
    | none => false)

/-- Every member die, and every partner member, has prepared the commit (R204). -/
def State.commitPrepared (s : State) (g : Nat) : Bool :=
  !(memberDies s g).isEmpty && (memberDies s g).all (fun d => (s.group (gkey d g)).prep.isSome)
  && (members s g).all (fun Q => !s.joint Q || SMap.get false s.pair.prepared Q)

/-- Tell the partner, if a member works jointly. -/
def State.tellGroup (s : State) (g : Nat) : State :=
  if (members s g).any (fun Q => s.joint Q) then s.tellPartner else s

/-! ### The checks of step 3 (R203, R235, R266, R273, R326) -/

/-- The bank numbers that BANKS names. -/
def bankBits (b : BitVec 16) : List Nat := (List.range 16).filter (fun i => bitAt b i)

/-- The group holds a pending half of a context, a prefix or an adapter slot (R235). -/
def State.servingPending (s : State) (g : Nat) : Bool :=
  s.ctxs.any (fun e => e.2.pend.isSome && e.2.group == g) || s.pfxs.any (fun e => e.2.pend.isSome && e.2.group == g)
  || s.adapters.any (fun e => e.2.pend.isSome && e.2.group == g)

/-- A step commit breaks R273 on the state. -/
def State.stepBad (s : State) (g : Nat) (x : Desc) : Bool :=
  s.img.structKind != 2
  || (memberDies s g).any (fun d =>
    let l := (s.die d).learn.seen g
    l.pos != x.dataPos || x.dataPos.toNat != (x.tag.toNat + 1) * l.sps.toNat)

/-- The restore that a die's group has pending does not let the commit pass (R326) (DEDUCED, log 55). -/
def Restoring.blocks (r : Restoring) (x : Desc) : Bool :=
  (if r.verify then !r.verified else r.mismatches != 0)
  || x.tag != r.step || x.dataPos != r.dataPos || x.banks != r.banksUsed || x.replay

def State.restoreBad (s : State) (g : Nat) (x : Desc) : Bool :=
  (memberDies s g).any (fun d => match (s.die d).restoring with
    | some r => r.group == g && r.blocks x
    | none => false)

/-- The code with which a commit fails, if any. -/
def State.commitCheck (s : State) (g : Nat) : Option Code :=
  match s.commitEntries g with
  | [] => none
  | (Q, e) :: es =>
    let x := e.desc
    let owner := s.ownerOf Q
    if x.badCommit || es.any (fun y => y.2.desc.badCommit) || es.any (fun y => x.commitDiffers y.2.desc)
      || (x.op == 2 && x.replay && x.banks != 0) then some Status.descFieldRange
    else if es.any (fun y => s.ownerOf y.1 != owner)
      || (bankBits x.banks).any (fun i => !(s.pbank i).valid || (s.pbank i).tenant.toNat != owner)
      || (x.op != 2 && s.learnPending g) || (x.op != 1 && s.servingPending g)
      || (x.op == 2 && (s.stepBad g x || s.restoreBad g x)) then some Status.illegalInState
    else none

/-! ### Phase 1 (R204) -/

/-- Write the new cursor into the slot that does not hold the cursor of the committed number. -/
def Queue.prepareCursor (q : Queue) (own next seq : Nat) : Queue :=
  if q.tag0 = some own then { q with cur1 := seq, tag1 := some next } else { q with cur0 := seq, tag0 := some next }

/-- Phase 1: every member die writes the new cursors and marks its group record prepared. -/
def State.prepareCommit (s : State) (g : Nat) : State :=
  match s.commitEntries g with
  | [] => s
  | (Q0, e0) :: _ =>
    let next := s.groupTop g + 1
    let s1 := (s.commitEntries g).foldl (fun s y =>
      s.modQueue y.1 (fun q => q.prepareCursor (s.group (s.groupKey y.1)).num next y.2.seq)) s
    let p : Prepared :=
      { num := next, kind := BitVec.ofNat 2 e0.desc.op, tag := e0.desc.tag, banks := e0.desc.banks
        dataPos := e0.desc.dataPos, replay := e0.desc.replay
        restoring := (s.die (dieOfQ Q0)).restoring.isSome }
    (memberDies s g).foldl (fun s d => s.modGroup (gkey d g) (fun r => { r with prep := some p })) s1

/-! ### Step 5: the effect -/

/-- A group record once its prepared commit has taken effect. A replay changes neither the recorded TAG nor DATA_POS
(R274). -/
def GroupLed.settle (r : GroupLed) (now : Word) : GroupLed :=
  match r.prep with
  | some p => if p.replay
    then { r with num := p.num, prep := none, kind := p.kind, banks := p.banks, replay := true, time := now }
    else { r with num := p.num, prep := none, kind := p.kind, banks := p.banks, replay := false, time := now,
                  tag := p.tag, dataPos := p.dataPos }
  | none => r

/-- Flip CURRENT of each bank entry named (R203). -/
def State.flipBanks (s : State) (b : BitVec 16) : State :=
  (bankBits b).foldl (fun s i => s.modPbank i (fun x => { x with current := !x.current })) s

/-- A context's status record (R235). -/
def ctxStatus (i : Nat) (c : Ctx) (tag now : Word) : List Byte :=
  let a := c.adapter.getD (0, 0)
  leBytes 8 (c.len % 2 ^ 22 * 2 ^ 42 + i * 2 ^ 29 + c.state.toNat * 2 ^ 27 + c.cls.toNat * 2 ^ 24)
    ++ leBytes 8 (a.1 * 2 ^ 54 + a.2 * 2 ^ 38) ++ leBytes 8 tag.toNat ++ leBytes 8 now.toNat

/-- The LEN advance of a context: from the committed LEN, 0 where the committed record is free (DEDUCED, log 39). -/
def lenAdvance (h : Halves Ctx) (c : Ctx) : Nat := c.len - (if h.com.state = 0 then 0 else h.com.len)

/-- What a token commit does for one context whose pending half the group wrote (R235): WR_END, TOKENS, the status
record. -/
def State.tokenCtx (s : State) (k : Nat) (h : Halves Ctx) (c : Ctx) (tag : Word) : State :=
  let d := k / ctxPer
  let s := s.setCtx k { h with pend := some { c with wrEnd := c.len } }
  let s := s.modDie d (fun x => { x with
    tokens := SMap.modify 0 x.tokens c.cls.toNat (fun n => ctrAdd n (lenAdvance h c)) })
  let bs := ctxStatus (k % ctxPer) c tag s.time.now
  if c.statusHbm then s.storeHbm c.statusAddr bs else s.setHost c.tenant c.statusAddr bs

/-- What a token commit does for every context whose pending half the group wrote. -/
def State.tokenCtxs (s : State) (g : Nat) (tag : Word) : State :=
  s.ctxs.foldl (fun s e => match e.2.pend with
    | some c => if e.2.group = g then s.tokenCtx e.1 e.2 c tag else s
    | none => s) s

/-- The pending halves of the group at the commit's effect (R235, R266, R274, R304). -/
def State.commitRecords (s : State) (g : Nat) (x : Desc) : State :=
  if x.op = 2 ∧ x.replay then
    let s := { s with streams := SMap.mapAll (halves0 {}) (fun _ h => h.discard g) s.streams }
    (dieIds.foldl (fun s d => s.modDie d (fun y => { y with learn := y.learn.discard g })) s).commitHalves g false
  else
    ((if x.op = 1 then s.tokenCtxs g x.tag else s).commitHalves g (x.op == 2)).settleRefs

/-- What a step commit leaves on a member die: TAG in QUE_LEARN_STEP, no pending restore (R273, R326). -/
def Die.stepCommitted (x : Die) (g : Nat) (e : Desc) : Die :=
  let x := match x.restoring with
    | some r => if r.group = g then { x with restoring := none } else x
    | none => x
  if e.replay then x else { x with learnStep := e.tag.truncate 32 }

/-- The commit takes effect: phase 2 on every member die (R203 step 5, R204). -/
def State.commitEffect (s : State) (g : Nat) : State :=
  match s.commitEntries g with
  | [] => s
  | (_, e) :: _ =>
    let x := e.desc
    let now := s.time.now
    let ds := memberDies s g
    let s := ds.foldl (fun s d => s.modGroup (gkey d g) (fun r => r.settle now)) s
    let s := s.flipBanks x.banks
    let now' := BitVec.ofNat 16 s.currentBits
    let s := ds.foldl (fun s d => s.modGroup (gkey d g) (fun r => { r with current := now' })) s
    let s := s.commitRecords g x
    if x.op = 2 then ds.foldl (fun s d => s.modDie d (fun y => y.stepCommitted g x)) s else s

/-! ### Step 6: completion -/

/-- One member's COMMITTED advances and its commit entry completes. -/
def State.finishMember (s : State) (Q : Nat) (e : Entry) : State :=
  let num := (s.group (s.groupKey Q)).num
  ((s.modQueue Q (fun q => { q with committed := q.ledgerCursor num })).closeEntry Q e Status.ok).closeReady Q
    (s.queue Q).entries.length

/-- Forget what the partner has said of a commit that is over. -/
def State.clearPairMarks (s : State) (Qs : List Nat) : State :=
  { s with pair := { s.pair with
    prepared := SMap.eraseIf (fun k => Qs.contains k) s.pair.prepared
    committed := SMap.eraseIf (fun k => Qs.contains k) s.pair.committed } }

/-- Step 6: for joint members only once the partner has reported the commit. -/
def State.commitFinish (s : State) (g : Nat) : State :=
  if s.commitDone g && (members s g).all (fun Q => !s.pairHalt Q && (!s.joint Q || SMap.get false s.pair.committed Q)) then
    let es := s.commitEntries g
    ((es.foldl (fun s y => s.finishMember y.1 y.2) s).clearPairMarks (es.map Prod.fst)).settleWaiting g
  else s

/-! ### The commit goes on as far as it can -/

/-- Phase 2 (R204). A queue-reset that waited for it goes on once the commit has taken effect (R201). -/
def State.commitTwo (s : State) (g : Nat) : State :=
  if s.commitPrepared g && s.commitReady g then (((s.commitEffect g).tellGroup g).commitFinish g).settleWaiting g else s

/-- Steps 2 to 4: the checks, and phase 1 (R203, R204). -/
def State.commitOne (s : State) (g : Nat) : State :=
  if s.commitReady g && !s.commitDone g && !(members s g).any (fun Q => s.preparedFor Q) then
    match s.commitCheck g with
    | some c => s.failCommit g c
    | none => (s.prepareCommit g).tellGroup g
  else s

/-- A commit goes on: phase 1, then phase 2, then completion, each where it may. -/
def State.commitGo (s : State) (g : Nat) : State := ((s.commitOne g).commitTwo g).commitFinish g

/-! ### The rows -/

/-- A commit entry reaches its engine: the partner hears of it, and the commit goes on if this was the last member. -/
def State.commitReached (s : State) (Q : Nat) : State := (s.tellIfPaired Q).commitGo (groupOf s Q)

/-- A commit row. The entry completes with its group, not through its row (DEDUCED, log 95). -/
def runCommit (s : State) (d : DieId) (q : QId) (seq : BitVec 48) (row : Desc → Bool) : State :=
  runEntry s d q seq (fun x => x.cls == 5 && row x) (fun s Q _ => (s.commitReached Q, none))

/-- KIND 0; an entry of KIND 3 fails its group here (R203). -/
def execPlainCommit (d : DieId) (q : QId) (seq : BitVec 48) (s : State) : Res :=
  answer s (runCommit s d q seq (fun x => x.op == 0 || x.op == 3))
/-- KIND 1. -/
def execTokenCommit (d : DieId) (q : QId) (seq : BitVec 48) (s : State) : Res :=
  answer s (runCommit s d q seq (fun x => x.op == 1))
/-- KIND 2 with REPLAY = 0. -/
def execStepCommit (d : DieId) (q : QId) (seq : BitVec 48) (s : State) : Res :=
  answer s (runCommit s d q seq (fun x => x.op == 2 && !x.replay))
/-- KIND 2 with REPLAY = 1. -/
def execStepReplayCommit (d : DieId) (q : QId) (seq : BitVec 48) (s : State) : Res :=
  answer s (runCommit s d q seq (fun x => x.op == 2 && x.replay))

/-- A commit of a queue's group may go on where HBM access has not stopped (R52, R58). -/
def State.commitStep (s : State) (Q : Nat) (f : State → Nat → State) : State :=
  if s.power.hbmOff then s else f s (groupOf s Q)

/-- COMMIT_PROCEED: steps 2 to 4 of R203. -/
def execCommitProceed (d : DieId) (q : QId) (s : State) : Res :=
  answer s (s.commitStep (qnum d q) State.commitOne)

/-- COMMIT_PHASE2: phase 2 of R204 and what follows it. -/
def execCommitPhase2 (d : DieId) (q : QId) (s : State) : Res :=
  answer s (s.commitStep (qnum d q) (fun s g => (s.commitTwo g).commitFinish g))

end Sys2Proof.Machine
end

