-- ==== Sys2Proof/Machine/Ckpt.lean ====
section
/-! DEFINITION. Checkpoint descriptors (R314 to R328): SNAPSHOT and its Hold, RESTORE, DRAIN, COMPARE, and writes of a
snapshot slot. -/

namespace Sys2Proof.Machine

/-! ### The descriptor (R315, R316) -/

structure CkptDesc where
  op : Nat
  slot : Nat
  scope : Nat
  realign : Bool
  cold : Bool
  verify : Bool
  half : Half
  banks : Nat
  count : Nat
  list : Nat
  result : Nat
  vat : Nat
  curds : Nat
  rsv : Bool
  deriving DecidableEq, Repr

def ckptOf (x : Desc) : CkptDesc :=
  { op := fld x.w10 63 61, slot := fld x.w10 60 59, scope := fld x.w10 58 57, realign := bitAt x.w10 56
    cold := bitAt x.w10 55, verify := bitAt x.w10 54, half := if bitAt x.w10 53 then .east else .west
    banks := fld x.w10 52 51, count := fld x.w10 15 0, list := fld x.w18 63 22, result := fld x.w20 63 22
    vat := fld x.w28 63 38, curds := fld x.w28 37 28
    rsv := fld x.w10 50 16 != 0 || fld x.w18 21 0 != 0 || fld x.w20 21 0 != 0 || fld x.w28 27 0 != 0
      || x.w30 != 0 || x.w38 != 0 }

/-- The entry names a list. -/
def CkptDesc.listed (c : CkptDesc) : Bool := c.op == 0 || (c.op == 3 && c.scope == 1)

/-- A field of the entry breaks R315 on a die. -/
def CkptDesc.bad (c : CkptDesc) (d : Nat) : Bool :=
  c.rsv || decide (3 < c.op) || c.slot == 3 || (c.op == 0 && decide (1 < c.slot)) || c.scope == 3
  || (c.op != 3 && c.scope != 0)
  || (if c.listed then c.count == 0 || c.list % 64 != 0 || !hbmIn d c.list (16 * c.count) else c.count != 0 || c.list != 0)
  || c.result % 64 != 0 || !hbmIn d c.result 64
  || c.vat % 65536 != 0 || decide (320 < c.curds)
  || (c.scope == 2 && (decide (c.vat / 65536 < 320 * c.half.num) || decide (320 * (c.half.num + 1) < c.vat / 65536 + max 1 c.curds)))

/-- An entry of a list (R316). -/
structure ListEnt where
  addr : Nat
  bank : Nat
  bytes : Nat
  rsv : Bool
  deriving DecidableEq, Repr

def listEnt (bs : List Byte) (i : Nat) : ListEnt :=
  let w := fun k => BitVec.ofNat 64 (ofLe ((bs.drop (16 * i + 8 * k)).take 8))
  { addr := fld (w 0) 63 22, bank := fld (w 0) 21 14, bytes := (w 1).toNat, rsv := fld (w 0) 13 0 != 0 }

/-- The first byte of the range of a parameter bank entry: the current one, or the other. -/
def PBank.rangeBase (b : PBank) (current : Bool) : Nat :=
  4096 * (if b.current = current then b.base1.toNat else b.base0.toNat)
def PBank.bytes (b : PBank) : Nat := 4096 * b.pages.toNat

/-- A list entry breaks R316 on a die. -/
def State.listEntBad (s : State) (d : Nat) (scope1 : Bool) (e : ListEnt) : Bool :=
  e.rsv || e.addr % 4096 != 0 || e.bytes == 0 || decide (2 ^ 40 < e.bytes) || !hbmIn d e.addr e.bytes
  || (e.bank != 255 && (scope1 || decide (15 < e.bank) || (let b := s.pbank e.bank
      !b.valid || decide (e.addr < b.rangeBase true) || decide (b.rangeBase true + b.bytes < e.addr + e.bytes))))

/-- Two list entries share a byte. -/
def listClash (es : List ListEnt) : Bool :=
  (List.range es.length).any (fun i => (es.take i).any (fun a =>
    let b := es.getD i { addr := 0, bank := 0, bytes := 0, rsv := false }
    bytesMeet a.addr a.bytes b.addr b.bytes))

/-- The list of a die's entry, read as its owner. -/
def State.readList (s : State) (t : Nat) (c : CkptDesc) : State × Except Code (List ListEnt) :=
  let r := s.readHbm t false c.list (16 * c.count)
  match r.2 with
  | .error k => (r.1, .error k)
  | .ok bs => (r.1, .ok ((List.range c.count).map (listEnt bs)))

/-! ### The members (R315) -/

/-- The started checkpoint entries of a group, with their queues. -/
def State.ckptEntries (s : State) (g : Nat) : List (Nat × Entry) :=
  (members s g).filterMap (fun Q => (s.queue Q).ckptEntry.map (fun e => (Q, e)))

/-- Every member has started its entry, and every partner member has too. -/
def State.ckptReady (s : State) (g : Nat) : Bool :=
  !(members s g).isEmpty
  && (members s g).all (fun Q => match (s.queue Q).ckptEntry with
    | some e => !s.joint Q || SMap.get 0 s.pair.start Q == e.seq
    | none => false)

/-- The members' words differ. -/
def ckptDiffers (es : List (Nat × Entry)) : Bool :=
  es.any (fun a => es.any (fun b =>
    let x := a.2.desc
    let y := b.2.desc
    x.w10 != y.w10 || x.w28 != y.w28 || x.w30 != y.w30 || x.w38 != y.w38
    || (dieOfQ a.1 == dieOfQ b.1 && (x.w18 != y.w18 || x.w20 != y.w20))))

/-- What a group's checkpoint works on: the group, its owner, whether it is paired, and one entry for each member die. -/
structure Party where
  g : Nat
  t : Nat
  paired : Bool
  joint : Bool
  dies : List (Nat × CkptDesc)
  deriving DecidableEq, Repr

def State.party (s : State) (g : Nat) : Party :=
  let es := s.ckptEntries g
  { g := g, t := ((es.head?).map (fun e => s.ownerOf e.1)).getD 0
    paired := es.any (fun e => (s.queue e.1).paired), joint := es.any (fun e => s.joint e.1)
    dies := (memberDies s g).filterMap (fun d => (es.find? (fun e => dieOfQ e.1 == d)).map (fun e => (d, ckptOf e.2.desc))) }

/-- The entry that acts for a group on a die, by queue and SEQ: the first of its members there. -/
def State.ckptWho (s : State) (g d : Nat) : Nat × Nat :=
  (((s.ckptEntries g).find? (fun e => dieOfQ e.1 == d)).map (fun e => (e.1, e.2.seq))).getD (0, 0)

/-- Do something on each die in order; the first failure stops it. -/
def overDies (f : State → Nat → CkptDesc → State × Option Code) (s : State) : List (Nat × CkptDesc) → State × Option Code
  | [] => (s, none)
  | x :: xs =>
    let r := f s x.1 x.2
    match r.2 with
    | some c => (r.1, some c)
    | none => overDies f r.1 xs

/-- One step after another; the first failure stops them. -/
def thenStep (r : State × Option Code) (f : State → State × Option Code) : State × Option Code :=
  match r.2 with
  | some _ => r
  | none => f r.1

/-- A check that changes nothing. -/
def failIf (b : Bool) (code : Code) (s : State) : State × Option Code := (s, if b then some code else none)

/-- The address of a slot. -/
def State.slotAddr (s : State) (d k : Nat) : Nat := (s.ckpt (slotKey d k)).base.toNat * 4096
def State.slotState (s : State) (d k : Nat) : Nat := (s.ckpt (slotKey d k)).state.toNat

/-- Check 1 of R328 as far as the words of the entries go. -/
def wordsCheck (es : List (Nat × Entry)) (p : Party) (s : State) : State × Option Code :=
  failIf (ckptDiffers es || p.dies.any (fun x => x.2.bad x.1)) Status.descFieldRange s

/-! ### The sections of a snapshot (R319, R320) -/

/-- Pages that a byte count takes. -/
def pagesOf (n : Nat) : Nat := (n + 4095) / 4096
/-- Zeros up to a page boundary. -/
def padPage (bs : List Byte) : List Byte := bs ++ List.replicate (pagesOf bs.length * 4096 - bs.length) 0

/-- A stream entry. -/
def streamEntry (slot : Nat) (x : Stream) : List Byte :=
  leBytes 16 x.key.toNat ++ leBytes 4 x.step.toNat ++ leBytes 2 x.microbatch.toNat ++ leBytes 2 x.layer.toNat
    ++ leBytes 2 x.purpose.toNat ++ leBytes 2 slot ++ [BitVec.ofNat 8 (bnum x.keyed + 2 * bnum x.bound)] ++ leBytes 3 0

/-- A job entry. -/
def jobEntry (j : Nat) (r : Job) : List Byte :=
  leBytes 2 j ++ leBytes 1 r.run.toNat ++ [BitVec.ofNat 8 (bnum r.histValid)] ++ leBytes 4 r.hist.toNat
    ++ leBytes 3 r.nextBucket.toNat ++ leBytes 5 0

/-- A queue entry. -/
def queueEntry (Q : Nat) (q : Queue) : List Byte :=
  leBytes 2 Q ++ leBytes 6 q.committed ++ leBytes 6 q.accepted ++ leBytes 2 0

/-- The committed, keyed stream slots of a tenant on a die. -/
def State.keyedSlots (s : State) (d t : Nat) : List (Nat × Stream) :=
  (s.streams.filter (fun e => e.1 / streamPer == d && e.2.com.keyed && e.2.com.tenant == t)).map (fun e => (e.1 % streamPer, e.2.com))

/-- The committed job records of a tenant on a die; one that another group has pending is left out of a snapshot. -/
def State.jobsOf (s : State) (d t : Nat) : List (Nat × Halves Job) :=
  (s.jobs.filter (fun e => e.1 / jobPer == d && e.2.com != {} && e.2.com.tenant == t)).map (fun e => (e.1 % jobPer, e.2))

def State.savedJobs (s : State) (d t g : Nat) : List (Nat × Job) :=
  ((s.jobsOf d t).filter (fun e => !e.2.foreign g)).map (fun e => (e.1, e.2.com))

/-- The tensor table, given each tensor's entry, first page and bytes. -/
def State.tensorEntry (s : State) (e : ListEnt) (page : Nat) (bs : List Byte) : List Byte :=
  let off := if e.bank = 255 then e.addr else e.addr - (s.pbank e.bank).rangeBase true
  leBytes 8 off ++ leBytes 1 e.bank ++ leBytes 3 0 ++ leBytes 4 page ++ leBytes 8 e.bytes ++ leBytes 8 (crc64 bs).toNat

/-- Bytes of the sections of a die with `n` tensors. -/
def State.sectionLen (s : State) (d t g n : Nat) : Nat :=
  32 * n + 32 * (s.keyedSlots d t).length + 16 * (s.savedJobs d t g).length
    + 16 * ((members s g).filter (fun Q => dieOfQ Q == d)).length

/-- Pages that a snapshot takes. -/
def State.snapPages (s : State) (d t g : Nat) (es : List ListEnt) : Nat :=
  1 + pagesOf (s.sectionLen d t g es.length) + es.foldl (fun a e => a + pagesOf e.bytes) 0

/-- The sections: `ts` are the list entries with their bytes. -/
def State.sections (s : State) (d t g : Nat) (ts : List (ListEnt × List Byte)) : List Byte :=
  let first := 1 + pagesOf (s.sectionLen d t g ts.length)
  let table := ts.foldl (fun a x =>
    (a.1 + pagesOf x.1.bytes, a.2 ++ s.tensorEntry x.1 a.1 x.2)) (first, ([] : List Byte))
  table.2 ++ ((s.keyedSlots d t).map (fun e => streamEntry e.1 e.2)).flatten
    ++ ((s.savedJobs d t g).map (fun e => jobEntry e.1 e.2)).flatten
    ++ (((members s g).filter (fun Q => dieOfQ Q == d)).map (fun Q => queueEntry Q (s.queue Q))).flatten

/-- BANKS_USED of a list (R319). -/
def banksUsed (es : List ListEnt) : Nat :=
  (List.range 16).foldl (fun a i => a + bnum (es.any (fun e => e.bank == i)) * 2 ^ i) 0

/-- The header (R319) up to its checksum. -/
def State.headerBody (s : State) (d t g : Nat) (es : List ListEnt) (sec : List Byte) : List Byte :=
  let x := s.die d
  let l := x.learn.com
  let c := s.coord
  let cg := ((members s g).head?.map (fun Q => (s.queue Q).cgroup.toNat)).getD 0
  let saved := (s.savedJobs d t g).length == (s.jobsOf d t).length
  leBytes 4 0x50414E53 ++ leBytes 2 1 ++ leBytes 1 d
    ++ leBytes 1 (bnum c.side + 2 * bnum saved + 4 * bnum l.valid) ++ leBytes 8 Config.serial.toNat
    ++ leBytes 4 (c.x * 1024 + c.y * 32 + c.z) ++ leBytes 1 s.power.feedId.toNat ++ leBytes 1 t ++ leBytes 2 cg
    ++ leBytes 8 (s.group (gkey d g)).tag.toNat ++ leBytes 8 l.pos.toNat ++ leBytes 4 l.sps.toNat ++ leBytes 4 l.spm.toNat
    ++ leBytes 2 s.currentBits ++ leBytes 2 (banksUsed es) ++ leBytes 4 s.img.turnCount.toNat
    ++ leBytes 8 (((s.holdOf g d).map Hold.start).getD 0).toNat ++ leBytes 8 s.time.now.toNat
    ++ leBytes 4 es.length ++ leBytes 2 (s.keyedSlots d t).length ++ leBytes 2 (s.savedJobs d t g).length
    ++ leBytes 2 ((members s g).filter (fun Q => dieOfQ Q == d)).length ++ leBytes 2 0
    ++ leBytes 4 (s.snapPages d t g es) ++ leBytes 8 (crc64 sec).toNat ++ List.replicate 3992 0

def State.header (s : State) (d t g : Nat) (es : List ListEnt) (sec : List Byte) : List Byte :=
  let h := s.headerBody d t g es sec
  h ++ leBytes 8 (crc64 h).toNat

/-! ### The result record (R327) -/

structure Outcome where
  items : Nat
  mismatches : Nat
  first : Option (Nat × Word × Word)
  step : Word
  cold : Bool
  partnerSealed : Bool
  verified : Bool
  deriving DecidableEq, Repr

def Outcome.record (o : Outcome) (now : Word) : List Byte :=
  let f := match o.first with
    | some x => leBytes 8 x.1 ++ leBytes 8 x.2.1.toNat ++ leBytes 8 x.2.2.toNat
    | none => leBytes 8 (2 ^ 64 - 1) ++ leBytes 16 0
  leBytes 8 o.items ++ leBytes 8 o.mismatches ++ f ++ leBytes 8 now.toNat ++ leBytes 8 o.step.toNat
    ++ leBytes 8 (bnum o.cold + 2 * bnum o.partnerSealed + 4 * bnum o.verified)

/-- Write a die's result record. -/
def State.writeOutcome (s : State) (t : Nat) (c : CkptDesc) (o : Outcome) : State × Option Code :=
  s.writeHbm t c.result (o.record s.time.now)

/-- The items of two lists of checksums that differ, with their indexes. -/
def crcDiffs (mine theirs : List Word) : List (Nat × Word × Word) :=
  ((List.range mine.length).map (fun i => (i, mine.getD i 0, theirs.getD i 0))).filter (fun x =>
    x.2.1 != x.2.2 || decide (theirs.length ≤ x.1))

/-! ### SNAPSHOT (R317, R318) -/

/-- Check 1 of a SNAPSHOT on a die. -/
def State.snapFits (s : State) (p : Party) (d : Nat) (c : CkptDesc) : State × Option Code :=
  let r := s.readList p.t c
  match r.2 with
  | .error k => (r.1, some k)
  | .ok es =>
    failIf (es.any (r.1.listEntBad d false) || listClash es
      || decide (160 * 2 ^ 30 < es.foldl (fun a e => a + e.bytes) 0)
      || decide ((r.1.ckpt (slotKey d c.slot)).pages.toNat < r.1.snapPages d p.t p.g es)) Status.descFieldRange r.1

/-- Check 2 of a SNAPSHOT: on every member queue the entry before it is the group's latest commit. Before SEQ 1 there is none. -/
def State.snapIllegal (s : State) (p : Party) : Bool :=
  s.img.structKind != 2
  || p.dies.any (fun x => let r := s.group (gkey x.1 p.g)
    r.kind != 2 || r.replay || !(s.slotState x.1 x.2.slot == 0 || s.slotState x.1 x.2.slot == 2))
  || (s.ckptEntries p.g).any (fun e => e.2.seq == 1 || (s.queue e.1).committed + 1 != e.2.seq)

/-- The Hold begins: every slot is being written. -/
def State.beginHold (s : State) (p : Party) : State :=
  p.dies.foldl (fun s x =>
    (s.modCkpt (slotKey x.1 x.2.slot) (fun k => { k with state := 1, step := 0, group := p.g })).modDie x.1 (fun y =>
      { y with holds := y.holds ++ [{ group := p.g, slot := x.2.slot, start := s.time.now, sealed := false }] })) s

/-- A SNAPSHOT whose last member has started. -/
def State.snapStart (s : State) (p : Party) : State :=
  if s.held p.g then s
  else
    let r := thenStep (overDies (fun s d c => s.snapFits p d c) s p.dies)
      (fun s => failIf (s.snapIllegal p) Status.illegalInState s)
    match r.2 with
    | some k => r.1.closeCkpt p.g k
    | none => r.1.beginHold p

/-- Read the listed bytes in order; a sealed page refuses (R343). -/
def State.readTensors (s : State) (t : Nat) : List ListEnt → State × Except Code (List (ListEnt × List Byte))
  | [] => (s, .ok [])
  | e :: es =>
    let r := s.reachOpen t (rangePages e.addr e.bytes)
    match r.2 with
    | some k => (r.1, .error k)
    | none =>
      let o := r.1.readTensors t es
      match o.2 with
      | .error k => (o.1, .error k)
      | .ok ts => (o.1, .ok ((e, r.1.hbmBytes e.addr e.bytes) :: ts))

/-- Copy, write the state sections, and seal with the header (R319). -/
def State.sealDie (s : State) (p : Party) (d : Nat) (c : CkptDesc) : State × Option Code :=
  let l := s.readList p.t c
  match l.2 with
  | .error k => (l.1, some k)
  | .ok es =>
    let r := l.1.readTensors p.t es
    match r.2 with
    | .error k => (r.1, some k)
    | .ok ts =>
      let s := r.1
      let sec := s.sections d p.t p.g ts
      let body := padPage sec ++ (ts.map (fun x => padPage x.2)).flatten
      let a := s.slotAddr d c.slot
      let step := (s.group (gkey d p.g)).tag
      thenStep (thenStep (s.writeHbm p.t (a + 4096) body) (fun s => s.writeHbm p.t a (s.header d p.t p.g es sec)))
        (fun s =>
          (((s.modCkpt (slotKey d c.slot) (fun k => { k with state := 2, step := step, group := 0 })).modDie d (fun x =>
            { x with holds := x.holds.map (fun h => if h.group = p.g then { h with sealed := true } else h) })).raise d srcSealed).writeOutcome
            p.t c { items := es.length, mismatches := 0, first := none, step := step, cold := false, partnerSealed := false,
                    verified := false })

/-- The die's part of a Hold is not sealed yet. -/
def State.unsealed (s : State) (g d : Nat) : Bool := (s.holdOf g d).any (fun h => !h.sealed)

/-- HOLD_END on a die: it seals its slot, the copying of the Hold being done here (DESIGN CHOICE, log 45); the Hold ends once
every member die has sealed. -/
def State.holdEnds (s : State) (d g : Nat) : State :=
  if s.unsealed g d then
    let p := s.party g
    let r := overDies (fun s d c => s.sealDie p d c) s (p.dies.filter (fun x => x.1 == d))
    match r.2 with
    | some k => r.1.closeCkpt g k
    | none => if dieIds.any (fun e => r.1.unsealed g e) then r.1 else r.1.closeCkpt g Status.ok
  else s

def execHoldEnd (d : DieId) (q : QId) (s : State) : Res :=
  answer s (s.commitStep (qnum d q) (fun s g => s.holdEnds d.val g))

/-! ### RESTORE (R323, R324) -/

/-- A number in a byte string. -/
def numAt (bs : List Byte) (off n : Nat) : Nat := ofLe ((bs.drop off).take n)

/-- Bytes of the sections that a header announces. -/
def hdrSections (h : List Byte) : Nat :=
  32 * numAt h 0x48 4 + 32 * numAt h 0x4C 2 + 16 * numAt h 0x4E 2 + 16 * numAt h 0x50 2

/-- MAGIC, VERSION, HEADER_CRC. -/
def hdrSound (h : List Byte) : Bool :=
  numAt h 0 4 == 0x50414E53 && numAt h 4 2 == 1 && (crc64 (h.take 4088)).toNat == numAt h 4088 8

def hdrHistSaved (h : List Byte) : Bool := (numAt h 7 1).testBit 1
def hdrLearnValid (h : List Byte) : Bool := (numAt h 7 1).testBit 2

/-- The parts of a snapshot that lies in a slot: header and sections. -/
structure Snap where
  die : Nat
  desc : CkptDesc
  hdr : List Byte
  sec : List Byte
  deriving DecidableEq, Repr

/-- A tensor entry of a snapshot. -/
structure Tens where
  off : Nat
  bank : Nat
  page : Nat
  bytes : Nat
  crc : Word
  deriving DecidableEq, Repr

/-- The tensor table of a header and its sections. -/
def tensorsOf (hdr sec : List Byte) : List Tens :=
  (List.range (numAt hdr 0x48 4)).map (fun i =>
    let b := 32 * i
    { off := numAt sec b 8, bank := numAt sec (b + 8) 1, page := numAt sec (b + 0x0C) 4
      bytes := numAt sec (b + 0x10) 8, crc := BitVec.ofNat 64 (numAt sec (b + 0x18) 8) })

def Snap.tensors (x : Snap) : List Tens := tensorsOf x.hdr x.sec

/-- The stream entries: slot and contents. -/
def Snap.streams (x : Snap) (t : Nat) : List (Nat × Stream) :=
  (List.range (numAt x.hdr 0x4C 2)).map (fun i =>
    let b := 32 * numAt x.hdr 0x48 4 + 32 * i
    (numAt x.sec (b + 0x1A) 2 % 2048,
     { key := BitVec.ofNat 128 (numAt x.sec b 16), step := BitVec.ofNat 32 (numAt x.sec (b + 0x10) 4)
       microbatch := BitVec.ofNat 16 (numAt x.sec (b + 0x14) 2), layer := BitVec.ofNat 16 (numAt x.sec (b + 0x16) 2)
       purpose := BitVec.ofNat 16 (numAt x.sec (b + 0x18) 2), tenant := t
       keyed := (numAt x.sec (b + 0x1C) 1).testBit 0, bound := (numAt x.sec (b + 0x1C) 1).testBit 1 }))

/-- The job entries; under the cold-scale rule without their history. -/
def Snap.jobs (x : Snap) (t : Nat) (cold : Bool) : List (Nat × Job) :=
  (List.range (numAt x.hdr 0x4E 2)).map (fun i =>
    let b := 32 * numAt x.hdr 0x48 4 + 32 * numAt x.hdr 0x4C 2 + 16 * i
    (numAt x.sec b 2 % 4096,
     { tenant := t, run := BitVec.ofNat 8 (numAt x.sec (b + 2) 1)
       histValid := !cold && (numAt x.sec (b + 3) 1).testBit 0
       hist := if cold then 0 else BitVec.ofNat 32 (numAt x.sec (b + 4) 4)
       nextBucket := BitVec.ofNat 24 (numAt x.sec (b + 8) 3) }))

def Snap.pos (x : Snap) : Nat := numAt x.hdr 0x20 8
def Snap.sps (x : Snap) : Nat := numAt x.hdr 0x28 4
def Snap.spm (x : Snap) : Nat := numAt x.hdr 0x2C 4
def Snap.step (x : Snap) : Word := BitVec.ofNat 64 (numAt x.hdr 0x18 8)

/-- The counter position of the last BEGIN_MB: step and microbatch (R268, R323). -/
def Snap.derived (x : Snap) : Option (Nat × Nat) :=
  if x.pos < x.spm then none else some (counterOf (x.pos - x.spm) x.sps x.spm)

/-- A stream entry is skewed. -/
def Snap.skewed (x : Snap) (y : Stream) : Bool :=
  y.bound && (match x.derived with
    | some c => y.step.toNat != c.1 || y.microbatch.toNat != c.2
    | none => true)

/-- Read a slot's header and sections: check 1 of R328 for a RESTORE on a die. -/
def State.readSnap (s : State) (p : Party) (d : Nat) (c : CkptDesc) : State × Except Code Snap :=
  let k := s.ckpt (slotKey d c.slot)
  let a := s.slotAddr d c.slot
  if k.pages = 0 then (s, .error Status.descFieldRange)
  else
    let h := s.readHbm p.t false a 4096
    match h.2 with
    | .error e => (h.1, .error e)
    | .ok hdr =>
      if !hdrSound hdr || numAt hdr 6 1 != d || decide (k.pages.toNat < 1 + pagesOf (hdrSections hdr)) then
        (h.1, .error Status.descFieldRange)
      else
        let r := h.1.readHbm p.t false (a + 4096) (hdrSections hdr)
        match r.2 with
        | .error e => (r.1, .error e)
        | .ok sec =>
          let x : Snap := { die := d, desc := c, hdr := hdr, sec := sec }
          if (crc64 sec).toNat != numAt hdr 0x58 8
            || x.tensors.any (fun t => decide (k.pages.toNat < t.page + pagesOf t.bytes)
              || (t.bank == 255 && !hbmIn d t.off t.bytes) || (decide (15 < t.bank) && t.bank != 255))
          then (r.1, .error Status.descFieldRange)
          else (r.1, .ok x)

/-- Read the snapshots of every member die. -/
def readSnaps (p : Party) (s : State) : List (Nat × CkptDesc) → State × Except Code (List Snap)
  | [] => (s, .ok [])
  | x :: xs =>
    let r := s.readSnap p x.1 x.2
    match r.2 with
    | .error k => (r.1, .error k)
    | .ok a =>
      let o := readSnaps p r.1 xs
      match o.2 with
      | .error k => (o.1, .error k)
      | .ok as => (o.1, .ok (a :: as))

/-- The group has a pending half of any record (R323). -/
def State.anyPending (s : State) (g : Nat) : Bool :=
  s.streams.any (fun e => e.2.pend.isSome && e.2.group == g) || s.jobs.any (fun e => e.2.pend.isSome && e.2.group == g)
  || s.servingPending g || s.learnPending g

/-- The facts that the partner has told of its headers, once it has told them for every member die (R324). -/
def State.partnerFacts (s : State) (p : Party) : Option (List (Bool × Word)) :=
  let fs := p.dies.map (fun x => SMap.get none s.pair.facts x.1)
  if fs.all Option.isSome then some (fs.filterMap id) else none

/-- Check 2 of R328 for a RESTORE. A record that it would write is not pending under another group (R266, R304). -/
def State.restoreIllegal (s : State) (p : Party) (xs : List Snap) (facts : List (Bool × Word)) : Bool :=
  s.img.structKind != 2 || s.anyPending p.g || dieIds.any (fun d => s.restoringOf p.g d)
  || xs.any (fun x => (s.die x.die).learn.foreign p.g || (x.streams p.t).any (fun e => (s.stream (dkey x.die streamPer e.1)).foreign p.g)
    || (x.jobs p.t false).any (fun e => (s.job (dkey x.die jobPer e.1)).foreign p.g))
  || p.dies.any (fun y => (p.paired && !y.2.verify)
    || !(s.slotState y.1 y.2.slot == 0 || s.slotState y.1 y.2.slot == 2))
  || xs.any (fun x =>
    numAt x.hdr 0x10 4 != s.coord.x * 1024 + s.coord.y * 32 + s.coord.z
    || (p.dies.zip facts).any (fun f => f.1.1 == x.die && f.2.2 != x.step)
    || x.tensors.any (fun t => t.bank != 255 && (let b := s.pbank t.bank
      !b.valid || b.tenant.toNat != p.t || decide (b.bytes < t.off + t.bytes))))

/-- Write a die's tensors: the checksums recomputed, with the failure of a page. -/
def State.restoreTensors (s : State) (t a : Nat) : List Tens → State × Except Code (List Word)
  | [] => (s, .ok [])
  | x :: xs =>
    let r := s.readHbm t false (a + x.page * 4096) x.bytes
    match r.2 with
    | .error k => (r.1, .error k)
    | .ok bs =>
      let dest := if x.bank = 255 then x.off else (r.1.pbank x.bank).rangeBase false + x.off
      let w := r.1.writeHbm t dest bs
      match w.2 with
      | some k => (w.1, .error k)
      | none =>
        let o := w.1.restoreTensors t a xs
        match o.2 with
        | .error k => (o.1, .error k)
        | .ok cs => (o.1, .ok (crc64 bs :: cs))

/-- Restore one stream slot; a skewed one takes the derived counter and is logged. Where DATA_POS < SPM the spec states
no counter: then it is a free value (log 1) (DEDUCED, log 61). -/
def State.restoreStream (s : State) (p : Party) (x : Snap) (e : Nat × Stream) : State :=
  let put := fun (s : State) (y : Stream) => s.modStream (dkey x.die streamPer e.1) (fun h => h.write p.g (s.ckptWho p.g x.die) y)
  if x.skewed e.2 then
    let c := match x.derived with
      | some c => (c, s)
      | none => ((fld s.draw.1 31 0, fld s.draw.1 47 32), s.draw.2)
    let y := { e.2 with step := BitVec.ofNat 32 c.1.1, microbatch := BitVec.ofNat 16 c.1.2 }
    (put c.2 y).post x.die 0x0010 Status.streamSkew (e.1 * 2 ^ 53 + y.microbatch.toNat * 2 ^ 32 + y.step.toNat) 0
  else put s e.2

/-- Restore a job record, with LOST cleared. -/
def State.restoreJob (s : State) (p : Party) (d : Nat) (e : Nat × Job) : State :=
  (s.modJob (dkey d jobPer e.1) (fun h => h.write p.g (s.ckptWho p.g d) e.2)).modJobFlags (dkey d jobPer e.1) (fun y => { y with lost := false })

/-- Restore one die (R323). -/
def State.restoreDie (s : State) (p : Party) (cold : Bool) (x : Snap) : State × Option Code :=
  let r := s.restoreTensors p.t (s.slotAddr x.die x.desc.slot) x.tensors
  match r.2 with
  | .error k => (r.1, some k)
  | .ok cs =>
    let bad := crcDiffs cs (x.tensors.map Tens.crc)
    let s := r.1.modDie x.die (fun y => { y with
      learn := y.learn.write p.g (r.1.ckptWho p.g x.die)
        { pos := BitVec.ofNat 64 x.pos, sps := BitVec.ofNat 32 x.sps, spm := BitVec.ofNat 32 x.spm, valid := hdrLearnValid x.hdr } })
    let s := (x.streams p.t).foldl (fun s e => s.restoreStream p x e) s
    let s := (x.jobs p.t cold).foldl (fun s e => s.restoreJob p x.die e) s
    let s := s.modDie x.die (fun y => { y with
      restoring := some { group := p.g, step := x.step, dataPos := BitVec.ofNat 64 x.pos,
                          banksUsed := BitVec.ofNat 16 (numAt x.hdr 0x32 2), verify := x.desc.verify,
                          mismatches := bad.length, crcs := cs, verified := false } })
    let s := s.modCkpt (slotKey x.die x.desc.slot) (fun k => { k with state := 2, step := x.step })
    s.writeOutcome p.t x.desc { items := cs.length, mismatches := bad.length, first := bad.head?, step := x.step
                                cold := cold, partnerSealed := false, verified := false }

def restoreDies (p : Party) (cold : Bool) (s : State) : List Snap → State × Option Code
  | [] => (s, none)
  | x :: xs => thenStep (s.restoreDie p cold x) (fun s => restoreDies p cold s xs)

/-- The checks 2 and 3 of R328 and the restore itself; `fs` are the partner's facts, for each member die. -/
def State.restoreWith (s : State) (p : Party) (xs : List Snap) (fs : List (Bool × Word)) : State :=
  if s.restoreIllegal p xs fs then s.closeCkpt p.g Status.illegalInState
  else if xs.any (fun x => !x.desc.realign && (x.streams p.t).any (fun e => x.skewed e.2)) then
    s.closeCkpt p.g Status.streamSkew
  else
    let cold := xs.any (fun x => x.desc.cold || !hdrHistSaved x.hdr) || fs.any (fun f => !f.1)
    let r := restoreDies p cold s xs
    r.1.closeCkpt p.g (r.2.getD Status.ok)

/-- A RESTORE whose last member has started: joint members first wait for the partner's facts (R324). -/
def State.restoreGo (s : State) (p : Party) : State :=
  let r := readSnaps p s p.dies
  match r.2 with
  | .error k => r.1.closeCkpt p.g k
  | .ok xs =>
    if p.joint then
      match r.1.partnerFacts p with
      | none => r.1
      | some fs => r.1.restoreWith p xs fs
    else r.1.restoreWith p xs []

/-! ### DRAIN (R321) -/

/-- A die sends its slot: the pages that the snapshot uses, which fail under R179 as they are read. -/
def State.drainDie (s : State) (p : Party) (d : Nat) (c : CkptDesc) : State × Option Code :=
  let a := s.slotAddr d c.slot
  let h := s.readHbm p.t false a 4096
  match h.2 with
  | .error k => (h.1, some k)
  | .ok hdr =>
    let n := 4096 * max 1 (min (numAt hdr 0x54 4) (s.ckpt (slotKey d c.slot)).pages.toNat)
    let r := h.1.readHbm p.t false a n
    match r.2 with
    | .error k => (r.1, some k)
    | .ok bs =>
      (((r.1.modCkpt (slotKey d c.slot) (fun k => { k with state := 3, group := p.g })).streamPartner (n / 480 + 1) bs), none)

/-- A DRAIN whose last member has started: every slot is sent; it completes once the partner has answered for each die. -/
def State.drainGo (s : State) (p : Party) : State :=
  let going := p.dies.all (fun x => let k := s.ckpt (slotKey x.1 x.2.slot)
    k.state == 3 && k.group == p.g)
  if !going then
    if !p.paired || p.dies.any (fun x => s.slotState x.1 x.2.slot != 2) then s.closeCkpt p.g Status.illegalInState
    else if !p.joint then s.closeCkpt p.g Status.pairDegraded
    else
      let r := overDies (fun s d c => s.drainDie p d c) s p.dies
      match r.2 with
      | some k => r.1.closeCkpt p.g k
      | none => r.1
  else if !p.joint then s.closeCkpt p.g Status.pairDegraded
  else if p.dies.any (fun x => SMap.get false s.pair.refused x.1) then s.closeCkpt p.g Status.illegalInState
  else if p.dies.all (fun x => (SMap.get none s.pair.sealed x.1).isSome) then
    let r := overDies (fun s d c => s.writeOutcome p.t c
      { items := 0, mismatches := 0, first := none, step := (s.ckpt (slotKey d c.slot)).step, cold := false
        partnerSealed := (SMap.get none s.pair.sealed d).getD false, verified := false }) s p.dies
    r.1.closeCkpt p.g (r.2.getD Status.ok)
  else s

/-! ### COMPARE (R325) -/

/-- The records that a restore has pending on a die, as bytes (log 44). -/
def State.pendingBytes (s : State) (d g : Nat) : List Byte :=
  let l := (s.die d).learn.seen g
  leBytes 8 l.pos.toNat ++ leBytes 4 l.sps.toNat ++ leBytes 4 l.spm.toNat ++ leBytes 1 (bnum l.valid)
    ++ ((s.streams.filter (fun e => e.1 / streamPer == d && e.2.pend.isSome && e.2.group == g)).map
      (fun e => streamEntry (e.1 % streamPer) (e.2.seen g))).flatten
    ++ ((s.jobs.filter (fun e => e.1 / jobPer == d && e.2.pend.isSome && e.2.group == g)).map
      (fun e => jobEntry (e.1 % jobPer) (e.2.seen g))).flatten

/-- Checksums of listed ranges. -/
def State.rangeCrcs (s : State) (t : Nat) : List ListEnt → State × Except Code (List Word)
  | [] => (s, .ok [])
  | e :: es =>
    let r := s.readHbm t false e.addr e.bytes
    match r.2 with
    | .error k => (r.1, .error k)
    | .ok bs =>
      let o := r.1.rangeCrcs t es
      match o.2 with
      | .error k => (o.1, .error k)
      | .ok cs => (o.1, .ok (crc64 bs :: cs))

/-- The curds of a COMPARE of SCOPE 2 as a span. -/
def CkptDesc.span (c : CkptDesc) : List Span := if c.scope = 2 then vatSpan true c.vat (c.curds * 65536) false else []

/-- The banks of a COMPARE of SCOPE 2. -/
def CkptDesc.bankKeys (c : CkptDesc) (d : Nat) : List Nat :=
  if c.scope = 2 then ([0, 1].filter (fun b => c.banks.testBit b)).map (fun b => bkey d c.half b) else []

/-- The bytes of an accumulator bank: 1,024 rows of 512 positions. -/
def State.bankBytes (s : State) (k : Nat) : List Byte :=
  ((List.range 1024).map (fun r => ((List.range 512).map (fun c => leBytes 4 (s.accEntry (akey k r c)).toNat)).flatten)).flatten

/-- The checksums of a die's items. -/
def State.localCrcs (s : State) (p : Party) (d : Nat) (c : CkptDesc) : State × Except Code (List Word) :=
  match c.scope with
  | 0 => (s, .ok ((((s.die d).restoring.map Restoring.crcs).getD []) ++ [Config.restoreCrc (s.pendingBytes d p.g)]))
  | 1 =>
    let l := s.readList p.t c
    match l.2 with
    | .error k => (l.1, .error k)
    | .ok es => l.1.rangeCrcs p.t es
  | _ => (s, .ok ((List.range c.curds).map (fun i => crc64 (s.vatBytes d (c.vat + i * 65536) 65536))
      ++ (c.bankKeys d).map (fun k => crc64 (s.bankBytes k))))

/-- The checksums of every member die. -/
def allCrcs (p : Party) (s : State) : List (Nat × CkptDesc) → State × Except Code (List (List Word))
  | [] => (s, .ok [])
  | x :: xs =>
    let r := s.localCrcs p x.1 x.2
    match r.2 with
    | .error k => (r.1, .error k)
    | .ok a =>
      let o := allCrcs p r.1 xs
      match o.2 with
      | .error k => (o.1, .error k)
      | .ok as => (o.1, .ok (a :: as))

/-- Check 1 of a COMPARE on a die: its list. -/
def State.compareList (s : State) (p : Party) (d : Nat) (c : CkptDesc) : State × Option Code :=
  if c.listed then
    let r := s.readList p.t c
    match r.2 with
    | .error k => (r.1, some k)
    | .ok es => failIf (es.any (r.1.listEntBad d true) || listClash es) Status.descFieldRange r.1
  else (s, none)

/-- Check 2 of a COMPARE. -/
def State.compareIllegal (s : State) (p : Party) : Bool :=
  !p.paired || p.dies.any (fun x => (x.2.scope == 0 && !s.restoringOf p.g x.1)
    || (x.2.bankKeys x.1).any (fun k => !(s.bank k).held))

/-- Check 4 of a COMPARE on a die. -/
def State.compareCurds (s : State) (p : Party) (d : Nat) (c : CkptDesc) : State × Option Code :=
  let Q := (s.ckptWho p.g d).1
  match vatCheck (s.groupOwns d (s.bind Q).group) noCurds c.span with
  | some e => (s.violation d Q e.1 e.2, some e.1)
  | none => (s, none)

/-- Check 5 of a COMPARE on a die. -/
def State.compareFence (s : State) (d : Nat) (c : CkptDesc) : State × Option Code :=
  failIf ((c.scope == 2 && s.fencedAt d c.half) || s.spanFenced d c.span) Status.regionFenced s

/-- Sense the curds of every die; true when a region was fenced, and with it the group's entries have ended. -/
def senseDies (s : State) : List (Nat × CkptDesc) → State × Bool
  | [] => (s, false)
  | x :: xs =>
    let r := s.senseVat x.1 x.2.span
    if r.2 then r else senseDies r.1 xs

/-- One die's part of a finished COMPARE. -/
def State.compareDie (s : State) (p : Party) (clean : Bool) (d : Nat) (c : CkptDesc) (mine : List Word) : State × Option Code :=
  let bad := crcDiffs mine ((SMap.get none s.pair.crcs d).getD [])
  let s := s.modDie d (fun x => { x with mismatchCount := ctrAdd x.mismatchCount bad.length })
  let s := s.raiseIf (!bad.isEmpty) d srcMismatch
  let ok := clean && c.scope == 0
  let s := if ok then s.modDie d (fun x => { x with restoring := x.restoring.map (fun r => { r with verified := true }) }) else s
  s.writeOutcome p.t c { items := mine.length, mismatches := bad.length, first := bad.head?, step := 0, cold := false
                         partnerSealed := false, verified := ok }

def compareDies (p : Party) (clean : Bool) (s : State) : List ((Nat × CkptDesc) × List Word) → State × Option Code
  | [] => (s, none)
  | x :: xs => thenStep (s.compareDie p clean x.1.1 x.1.2 x.2) (fun s => compareDies p clean s xs)

/-- A COMPARE whose last member has started. -/
def State.compareGo (s : State) (p : Party) : State :=
  let r := thenStep (thenStep (thenStep (overDies (fun s d c => s.compareList p d c) s p.dies)
    (fun s => failIf (s.compareIllegal p) Status.illegalInState s))
    (fun s => overDies (fun s d c => s.compareCurds p d c) s p.dies))
    (fun s => overDies State.compareFence s p.dies)
  match r.2 with
  | some k => r.1.closeCkpt p.g k
  | none =>
    if !p.joint then r.1.closeCkpt p.g Status.pairDegraded
    else if !p.dies.all (fun x => (SMap.get none r.1.pair.crcs x.1).isSome) then r.1
    else
      let v := senseDies r.1 p.dies
      if v.2 then v.1
      else
        let o := allCrcs p v.1 p.dies
        match o.2 with
        | .error k => o.1.closeCkpt p.g k
        | .ok as =>
          let xs := p.dies.zip as
          let clean := xs.all (fun x => (crcDiffs x.2 ((SMap.get none o.1.pair.crcs x.1.1).getD [])).isEmpty)
          let e := compareDies p clean o.1 xs
          e.1.closeCkpt p.g (e.2.getD Status.ok)

/-! ### The rows -/

/-- A checkpoint group goes on as far as it can. -/
def State.ckptGo (s : State) (g : Nat) : State :=
  if !s.ckptReady g then s
  else
    let p := s.party g
    let r := wordsCheck (s.ckptEntries g) p s
    match r.2 with
    | some k => s.closeCkpt g k
    | none => match (p.dies.head?).map (fun x => x.2.op) with
      | some 0 => s.snapStart p
      | some 1 => s.restoreGo p
      | some 2 => s.drainGo p
      | some 3 => s.compareGo p
      | _ => s

/-- A checkpoint row: the partner hears of it, and the group goes on if this was the last member. The entry completes
with its group. -/
def runCkpt (s : State) (d : DieId) (q : QId) (seq : BitVec 48) (row : Nat → Bool) : State :=
  runEntry s d q seq (fun x => x.cls == 8 && row x.op) (fun s Q _ => ((s.tellIfPaired Q).ckptGo (groupOf s Q), none))

/-- OP 0; an entry with a reserved OP fails here. -/
def execSnapshot (d : DieId) (q : QId) (seq : BitVec 48) (s : State) : Res :=
  answer s (runCkpt s d q seq (fun o => o == 0 || decide (4 ≤ o)))
def execRestore (d : DieId) (q : QId) (seq : BitVec 48) (s : State) : Res := answer s (runCkpt s d q seq (· == 1))
def execDrain (d : DieId) (q : QId) (seq : BitVec 48) (s : State) : Res := answer s (runCkpt s d q seq (· == 2))
def execCompare (d : DieId) (q : QId) (seq : BitVec 48) (s : State) : Res := answer s (runCkpt s d q seq (· == 3))

/-- A write of QUE_CKPT_SLOT_A_k: only while STATE is empty or sealed, and the slot is then empty (R314). -/
def State.writeSlot (s : State) (d k : Nat) (v : Word) : State :=
  s.modCkpt (slotKey d k) (fun x =>
    if x.state = 0 ∨ x.state = 2 then
      { base := BitVec.ofNat 30 (fld v 63 34), pages := BitVec.ofNat 30 (fld v 33 4), state := 0, step := 0, group := 0 }
    else x)

def execCkptSlotWrite (d : DieId) (k : Fin 3) (v : Word) (s : State) : Res :=
  answer s (s.whenReady (s.writeSlot d.val k.val v))

end Sys2Proof.Machine
end

