-- ==== Sys2Proof/Machine/Pair.lean ====
section
/-! DEFINITION. The mirror pair (R206, R207, R312, R321, R324, R325): partner timeout, takeover, a fence at the partner,
and what the partner's control frames say. -/

namespace Sys2Proof.Machine

/-! ### Solo and halted (R206) -/

/-- The enabled queues that work jointly with the partner's. -/
def State.jointQueues (s : State) : List Nat := (enabledQueues s).filter (fun Q => s.joint Q)

/-- SOLO of QUE_PAIR_STATUS: a paired queue commits alone. -/
def State.soloShown (s : State) : Bool := (enabledQueues s).any (fun Q => (s.queue Q).paired && (s.queue Q).solo)

/-- SOLO on queues; DEGRADED when SOLO becomes 1 (R212). -/
def State.goSolo (s : State) (Qs : List Nat) : State :=
  let was := s.soloShown
  let s := Qs.foldl (fun s Q => s.modQueue Q (fun q => { q with solo := true })) s
  s.raiseIf (!was && s.soloShown) 0 srcDegraded

/-- Commits and checkpoint entries of groups go on, where HBM access has not stopped (R52, R58). -/
def State.groupsGo (s : State) (gs : List Nat) : State :=
  if s.power.hbmOff then s else gs.foldl (fun s g => (s.commitGo g).ckptGo g) s

/-- DRAIN and COMPARE entries that wait for the partner complete with PAIR_DEGRADED (R321, R325) (DEDUCED, log 62). -/
def State.dropCompares (s : State) (gs : List Nat) : State :=
  gs.foldl (fun s g =>
    if (s.ckptEntries g).any (fun e => decide (2 ≤ e.2.desc.op)) then s.closeCkpt g Status.pairDegraded else s) s

/-- A receipt in progress fails (R321). -/
def State.dropReceipts (s : State) : State :=
  dieIds.foldl (fun s d =>
    if s.slotState d 2 = 4 then
      ({ s with pair := { s.pair with receipt := SMap.set [] s.pair.receipt d [] } }.modCkpt (slotKey d 2)
        (fun k => { k with state := 0, step := 0 })).raise d srcReceiptFailed
    else s) s

/-- Side 1 halts a paired queue with PAIR_DEGRADED; a prepared commit, and one that waits for the partner's word, stay
(R206). -/
def State.haltPair (s : State) (Q : Nat) : State :=
  let q := s.queue Q
  if q.halted then s
  else
    let keep := fun (e : Entry) => e.desc.cls == 5 && e.stat == .started && (s.preparedFor Q || s.inEffect Q e)
    (s.haltAt Q q.done Status.pairDegraded).modQueue Q (fun r => { r with entries := q.entries.filter keep })

/-- PARTNER_TIMEOUT: the partner has not answered an exchange. Side 0 goes on alone; side 1 halts. -/
def State.partnerLost (s : State) : State :=
  let Qs := s.jointQueues
  if Qs.isEmpty then s
  else
    let gs := s.groupsOf Qs
    let s := (s.dropCompares gs).dropReceipts
    if s.coord.side then
      let s := (Qs.foldl State.haltPair s).settleAllGates
      let s := (s.raiseIf (!s.pair.halted) 0 srcDegraded).postPkg 0x000D Status.pairDegraded 1 srcDegraded
      { s with pair := { s.pair with halted := true } }
    else ((s.goSolo Qs).postPkg 0x000D Status.pairDegraded 0 srcDegraded).groupsGo gs

def execPartnerTimeout (s : State) : Res := answer s s.partnerLost

/-- TAKEOVER on side 1 (R206): prepared commits roll forward, and the queues that the timeout halted go on alone. -/
def State.takeOver (s : State) : State :=
  if !s.coord.side then s
  else
    let Qs := s.jointQueues
    let gs := s.groupsOf Qs
    let held := Qs.filter (fun Q => s.pairHalt Q)
    let s := s.goSolo Qs
    let s := held.foldl (fun s Q =>
      (s.modQueue Q (fun q => { q with halted := false })).writeCursors Q) s
    { s with pair := { s.pair with halted := false } }.groupsGo gs

def execTakeover (s : State) : Res := answer s (s.whenReady s.takeOver)

/-! ### A fence at the partner (R207) -/

/-- A queue is bound to a part of a package. -/
def State.boundToPart (s : State) (part : FencedPart) (Q : Nat) : Bool :=
  match part with
  | .die d => dieOfQ Q == d.val
  | .region d h => dieOfQ Q == d.val && s.boundTo h Q

/-- PARTNER_FENCE_NOTICE: the paired queues bound to the fenced part, and the members of their groups, go on alone. -/
def State.partnerFenced (s : State) (part : FencedPart) : State :=
  let gs := s.groupsOf (s.jointQueues.filter (s.boundToPart part))
  let Qs := s.jointQueues.filter (fun Q => gs.contains (groupOf s Q))
  ((s.goSolo Qs).dropCompares gs).groupsGo gs

def execPartnerFenceNotice (part : FencedPart) (s : State) : Res := answer s (s.partnerFenced part)

/-! ### A snapshot from the partner (R321) -/

/-- The bytes received are a whole snapshot: header, sections and tensors agree with their checksums. -/
def snapSound (bs : List Byte) : Bool :=
  let hdr := bs.take 4096
  let sec := (bs.drop 4096).take (hdrSections hdr)
  hdrSound hdr && (crc64 sec).toNat == numAt hdr 0x58 8
  && (tensorsOf hdr sec).all (fun t => crc64 ((bs.drop (4096 * t.page)).take t.bytes) == t.crc)

/-- Pages that the transfer needs, as far as it has come. -/
def receiptPages (bs : List Byte) : Nat := max (pagesOf bs.length) (if bs.length < 0x58 then 0 else numAt bs 0x54 4)

/-- The receipt of a die ends: sealed or empty. -/
def State.endReceipt (s : State) (d : Nat) (ok : Bool) (step : Word) : State :=
  let s := { s with pair := { s.pair with receipt := SMap.set [] s.pair.receipt d [] } }
  let s := s.modCkpt (slotKey d 2) (fun k => { k with state := if ok then 2 else 0, step := if ok then step else 0 })
  (s.raise d (if ok then srcSealed else srcReceiptFailed)).tellPartner

/-- Drain data of the partner arrives for slot 2 of a die; the sender is refused while the slot is draining, or where it
is too small. -/
def State.drainIn (s : State) (d : Nat) (bs : List Byte) (last : Bool) : State :=
  let k := s.ckpt (slotKey d 2)
  let all := (if k.state = 4 then SMap.get [] s.pair.receipt d else []) ++ bs
  if k.state = 3 then s.tellPartner
  else if k.pages.toNat < receiptPages all then
    if k.state = 4 then s.endReceipt d false 0 else s.tellPartner
  else if !last then
    { s with pair := { s.pair with receipt := SMap.set [] s.pair.receipt d all } }.modCkpt (slotKey d 2)
      (fun k => { k with state := 4, step := 0 })
  else
    let w := s.writeHbm (numAt all 0x15 1) (s.slotAddr d 2) all
    w.1.endReceipt d (w.2.isNone && snapSound all) (BitVec.ofNat 64 (numAt all 0x18 8))

/-! ### Control frames -/

/-- The groups with a started checkpoint entry on a die. -/
def State.ckptGroups (s : State) (d : Nat) : List Nat :=
  s.groupsOf ((enabledQueues s).filter (fun Q => dieOfQ Q == d && (s.queue Q).ckptEntry.isSome))

/-- What a control frame of the partner says, and what goes on because of it. -/
def State.pairIn (s : State) (m : PairMsg) : State :=
  match m with
  | .accepted q tail => { s with pair := { s.pair with acc := SMap.set 0 s.pair.acc q.val tail.toNat } }
  | .started q seq =>
    { s with pair := { s.pair with start := SMap.set 0 s.pair.start q.val seq.toNat } }.groupsGo [groupOf s q.val]
  | .prepared q =>
    { s with pair := { s.pair with prepared := SMap.set false s.pair.prepared q.val true } }.groupsGo [groupOf s q.val]
  | .committed q =>
    { s with pair := { s.pair with committed := SMap.set false s.pair.committed q.val true } }.groupsGo [groupOf s q.val]
  | .drainData d bs last => if s.power.hbmOff then s else s.drainIn d.val bs last
  | .restoreFacts d saved step =>
    { s with pair := { s.pair with facts := SMap.set none s.pair.facts d.val (some (saved, step)) } }.groupsGo (s.ckptGroups d.val)
  | .compareCrcs d crcs =>
    { s with pair := { s.pair with crcs := SMap.set none s.pair.crcs d.val (some crcs) } }.groupsGo (s.ckptGroups d.val)
  | .receipt d ok =>
    { s with pair := { s.pair with sealed := SMap.set none s.pair.sealed d.val (some ok) } }.groupsGo (s.ckptGroups d.val)
  | .refusedDrain d =>
    { s with pair := { s.pair with refused := SMap.set false s.pair.refused d.val true } }.groupsGo (s.ckptGroups d.val)
  | .attach _ => s

/-- The frame that carries a control message, as far as the link level sees it. -/
def controlFrame : Frame :=
  { typ := 5, vc := 0, dateline := false, tenant := 0, epoch := 0, last := false, raised := false, w1 := 0, w2 := 0
    payload := [] }

/-- CONTROL_FRAME_RX: on the mirror port the partner speaks; what an attach endpoint says has no effect that the spec
gives. -/
def execControlFrameRx (p : PortId) (h : LinkHdr) (m : PairMsg) (s : State) : Res :=
  answer s (s.receive p.val h controlFrame (fun s => if s.role p.val = 7 then s.pairIn m else s))

end Sys2Proof.Machine
end

