-- ==== Sys2Proof/Machine/Security.lean ====
section
/-! DEFINITION. Tenants and keys (R183, R184, R346 to R352): CREATE, ROTATE and the sweep, REMOVE, IMPORT and EXPORT. -/

namespace Sys2Proof.Machine

/-! ### The descriptor (R347) -/

structure KeyDesc where
  op : Nat
  tenant : Nat
  force : Bool
  drainUs : Nat
  pages : Nat
  host : Nat
  hbm : Nat
  aad : Word
  cls : Nat
  rsv : Bool
  deriving DecidableEq, Repr

def keyDescOf (x : Desc) : KeyDesc :=
  { op := fld x.w10 63 60, tenant := fld x.w10 59 53, force := bitAt x.w10 52, drainUs := fld x.w10 47 32
    pages := fld x.w10 31 0, host := x.w18.toNat, hbm := fld x.w20 63 22, aad := x.w28, cls := fld x.w30 63 62
    rsv := fld x.w10 51 48 != 0 || fld x.w20 21 0 != 0 || fld x.w30 61 0 != 0 || x.w38 != 0 }

/-- OP 3 and 4 move pages. -/
def KeyDesc.moves (k : KeyDesc) : Bool := k.op == 3 || k.op == 4

/-- Check 1 of R348. -/
def KeyDesc.bad (k : KeyDesc) (d : Nat) : Bool :=
  k.rsv || decide (4 < k.op) || decide (64 < k.tenant) || ((k.op == 0 || k.op == 2) && k.tenant == 0)
  || spare (!k.moves) k.tenant || spare (k.op == 1) (bnum k.force) || spare (k.op == 2) k.drainUs
  || (k.op == 2 && k.drainUs == 0) || spare k.moves k.pages || spare k.moves k.host || spare k.moves k.hbm
  || spare k.moves k.aad.toNat || spare k.moves k.cls
  || (k.moves && (k.pages == 0 || k.host % 64 != 0 || k.hbm % 4096 != 0 || !hbmIn d k.hbm (4096 * k.pages)
      || decide (2 ^ 64 < k.host + 4160 * k.pages)
      || !(k.cls == 1 || k.cls == 2)))

/-- The REMOVE entry of a tenant is still started. -/
def State.removerRuns (s : State) (x : Tenant) : Bool :=
  match x.remover with
  | some r => ((s.queue r.1).entry r.2).any (fun e => e.stat == .started)
  | none => false

/-- Check 2 of R348. -/
def State.keyIllegal (s : State) (Q seq : Nat) (k : KeyDesc) : Bool :=
  let owner := s.ownerOf Q
  let x := s.tenant k.tenant
  match k.op with
  | 0 => owner != 0 || x.state != .absent || !vfOn s.vfEnable k.tenant
  | 1 => !(owner == 0 || owner == k.tenant) || x.state != .active
  | 2 => owner != 0 || x.state == .absent
    || (x.state == .removing && x.remover != some (Q, seq) && s.removerRuns x)
  | _ => (s.transportFor Q seq).isNone

/-- Check 3 of R348. -/
def State.keySweepBusy (s : State) (k : KeyDesc) : Bool :=
  k.op == 1 && ((s.tenant k.tenant).sweep || ((s.tenant k.tenant).sweepFailed && !k.force))

/-- The code with which checks 1 to 3 fail, if any. -/
def State.keyCheck (s : State) (d Q seq : Nat) (k : KeyDesc) : Option Code :=
  if k.bad d then some Status.descFieldRange
  else if s.keyIllegal Q seq k then some Status.illegalInState
  else if s.keySweepBusy k then some Status.keySweepBusy
  else none

/-! ### Keys (R183, R350, R351) -/

/-- Thyme log event 0x0012 (R355). -/
def State.logKey (s : State) (op t : Nat) : State :=
  s.postPkg 0x0012 Status.ok ((s.tenant t).newest.toNat * 2 ^ 16 + op * 2 ^ 8 + t) 0

/-- CREATE (R346). -/
def State.createTenant (s : State) (t : Nat) : State :=
  let r := s.drawKeys
  (r.2.setTenant t { state := .active, slot0 := some (KeySlot.fresh 0 r.1) }).logKey 0 t

/-- A tenant with new keys in the slot that does not hold the newest epoch (R350). -/
def Tenant.rotate (x : Tenant) (keys : BitVec 768) (dies : BitVec 4) : Tenant :=
  let k := KeySlot.fresh (x.newest + 1) keys
  let x := if x.slot0.any (fun y => y.epoch == x.newest) then { x with slot1 := some k } else { x with slot0 := some k }
  { x with newest := x.newest + 1, older := x.newest, olderValid := true, sweep := true, sweepFailed := false
           sweepBad := false, sweeping := dies }

/-- A die begins the sweep of a tenant, after the one it is at (R184, R350). -/
def State.beginSweep (s : State) (t d : Nat) : State :=
  s.modDie d (fun x =>
    if x.sweepActive then { x with sweepNext := x.sweepNext ++ [t] }
    else { x with sweepActive := true, sweepTenant := BitVec.ofNat 7 t, sweepPos := 0, sweepFailed := 0 })

/-- The dies that sweep: those in service (DEDUCED, log 64). -/
def State.sweepDies (s : State) : List Nat := dieIds.filter (fun d => !(s.die d).fenced)

/-- ROTATE (R350). -/
def State.rotateTenant (s : State) (t : Nat) : State :=
  let ds := s.sweepDies
  let mask := BitVec.ofNat 4 (ds.foldl (fun a d => a + 2 ^ d) 0)
  let x := s.tenant t
  let r := s.drawKeys
  let s := r.2
  let s := s.setTenant t (x.rotate r.1 mask)
  (ds.foldl (fun s d => s.beginSweep t d) s).logKey 1 t

/-! ### The sweep (R184, R350) -/

/-- The next page of a die that a tenant holds under its older epoch. -/
def State.sweepNextPage (s : State) (d t : Nat) : Option Nat :=
  let x := s.tenant t
  (s.tags.find? (fun e => e.1 / 2 ^ 28 == d && decide ((s.die d).sweepPos ≤ e.1 % 2 ^ 28) && e.2.assigned
    && e.2.owner == t && e.2.epoch == x.older)).map Prod.fst

/-- Sweep one page: read, verify, write back under the newest keys; one that fails is counted and logged. -/
def State.sweepOne (s : State) (d t p : Nat) : State :=
  let r := s.reachPage t false .part p
  let s := r.1.modDie d (fun x => { x with sweepPos := p % 2 ^ 28 + 1 })
  match r.2 with
  | none => s.seal p
  | some c =>
    let c := if c = Status.pageKeyMissing then c else Status.pageIntegrityFail
    ((s.modDie d (fun x => { x with sweepFailed := satAdd x.sweepFailed 1 })).modTenant t (fun x =>
      { x with sweepBad := true })).post d 0x0009 c p 0

/-- A die goes on to the next tenant to sweep, if one waits. -/
def Die.nextSweep (x : Die) : Die :=
  match x.sweepNext with
  | [] => { x with sweepActive := false, sweepPos := 0 }
  | t :: ts => { x with sweepActive := true, sweepTenant := BitVec.ofNat 7 t, sweepPos := 0, sweepFailed := 0, sweepNext := ts }

/-- A die ends its sweep: Thyme log event 0x0013. -/
def State.dieSwept (s : State) (d t : Nat) : State :=
  ((s.modTenant t (fun x => { x with sweeping := x.sweeping &&& ~~~((1 : BitVec 4) <<< d) })).modDie d Die.nextSweep).post d
    0x0013 Status.ok t 0

/-- One step of a die's sweep: paused while RATE_GBPS is 0. -/
def State.sweepStep (s : State) (d : Nat) : State :=
  let x := s.die d
  let t := x.sweepTenant.toNat
  if !x.sweepActive || x.sweepRate == 0 || x.fenced || s.power.hbmOff then s
  else match s.sweepNextPage d t with
  | some p => s.sweepOne d t p
  | none => s.dieSwept d t

def execSweepPage (d : DieId) (s : State) : Res := answer s (s.sweepStep d.val)

/-- The keys of an epoch leave their slot. -/
def Tenant.dropKeys (x : Tenant) (e : BitVec 2) : Tenant :=
  { x with slot0 := x.slot0.filter (fun k => k.epoch != e), slot1 := x.slot1.filter (fun k => k.epoch != e) }

/-- Every die in service has ended its sweep of a tenant (R350). -/
def State.sweepOver (s : State) (t : Nat) : Bool :=
  (s.tenant t).sweep && s.sweepDies.all (fun d => !(s.tenant t).sweeping.getLsbD d)

/-- SWEEP_END (R350). -/
def State.endSweep (s : State) (t : Nat) : State :=
  if s.sweepOver t then
    let x := s.tenant t
    if x.sweepBad then s.setTenant t { x with sweep := false, sweepFailed := true, sweeping := 0 }
    else (s.setTenant t
      { x.dropKeys x.older with sweep := false, olderValid := false, sweeping := 0 }).raise 0 srcSweepEnded
  else s

def execSweepEnd (tenant : Fn) (s : State) : Res := answer s (s.endSweep tenant.val)

/-! ### REMOVE (R351) -/

/-- The queues of a tenant. -/
def State.queuesOwned (s : State) (t : Nat) : List Nat := (enabledQueues s).filter (fun Q => (s.queue Q).owner == t)

/-- The first entry of a queue that has not started, on the device or in the ring. -/
def State.firstUnstarted (s : State) (Q : Nat) : Option Entry :=
  let q := s.queue Q
  match q.firstFetched with
  | some e => some e
  | none => if q.nextSeq ≤ q.accepted then some { seq := q.nextSeq, desc := s.ringEntry Q q.nextSeq, stat := .fetched } else none

/-- Step 1: a queue halts at its first entry that has not started; one that is halted already stays so. -/
def State.revokeQueue (s : State) (Q : Nat) : State :=
  if (s.queue Q).halted then s
  else match s.firstUnstarted Q with
  | some e =>
    let s := if ((s.queue Q).entry e.seq).isSome then s else s.modQueue Q (fun q => { q with entries := q.entries ++ [e] })
    s.closeEntry Q e Status.tenantRevoked
  | none => s

/-- Started entries of a tenant are left. -/
def State.tenantBusy (s : State) (t : Nat) : Bool :=
  (s.queuesOwned t).any (fun Q => (s.queue Q).entries.any (fun e => e.stat.inFlight))

/-- Step 2 at the end of DRAIN_US: what still runs on a queue is stopped as in R199. -/
def State.stopQueue (s : State) (Q : Nat) : State :=
  match (s.queue Q).entries.find? (fun e => e.stat == .started) with
  | some e =>
    if e.desc.cls = 5 then s.failCommit (groupOf s Q) Status.tenantRevoked
    else if e.desc.cls = 8 then s.closeCkpt (groupOf s Q) Status.tenantRevoked
    else s.closeEntry Q e Status.tenantRevoked
  | none => s

/-- Free what belongs to a tenant of a record: its committed half becomes what `gone` makes of it; of the pending half and what
it is made of, the writes that belong to the tenant go. -/
def Halves.purge {α : Type} (own : α → Bool) (gone : α → α) (h : Halves α) : Halves α :=
  let com := if own h.com then gone h.com else h.com
  match h.pend with
  | some p => if own p then halves0 com else { h with com := com, trail := h.trail.filter (fun x => !own x.2) }
  | none => halves0 com

/-- Free the records that belong to a tenant. -/
def freeRecords {α : Type} [DecidableEq α] (own : α → Bool) (zero : α) (m : SMap (Halves α)) : SMap (Halves α) :=
  SMap.mapAll (halves0 zero) (fun _ h => h.purge own (fun _ => zero)) m

/-- Raise a source once for each of some records. -/
def State.raiseEach (s : State) (ds : List Nat) (src : Nat) : State := ds.foldl (fun s d => s.raise d src) s

/-- The dies of the prefix records of a tenant that are not free, once for each (R258). -/
def State.prefixesOf (s : State) (t : Nat) : List Nat :=
  (s.pfxs.filter (fun e => e.2.com.tenant == t && e.2.com.state != 0)).map (fun e => e.1 / pfxPer)

/-- The generations of adapter slots of a tenant, one entry for each (R258). -/
def State.gensOf (s : State) (t : Nat) : List Nat :=
  s.adapters.flatMap (fun e => if e.2.com.tenant = some t then
    (e.2.com.cur.toList ++ e.2.com.old.toList).map (fun _ => 0) else [])

/-- Zero the curds that the applied image of a die gives a tenant. -/
def State.zeroCurdsOf (s : State) (d t : Nat) : State :=
  allCurds.foldl (fun s c => if (s.curdOwner d c).any (fun o => o.tenant == t) then s.zeroCurd d c else s) s

/-- Zero the accumulator banks tagged with a tenant. -/
def State.zeroBanksOf (s : State) (t : Nat) : State :=
  let ks := (s.banks.filter (fun e => e.2.tag.any (fun g => g.1 == t))).map Prod.fst
  { s with
    acc := SMap.eraseIf (fun k => ks.contains (k / (1024 * 512))) s.acc
    banks := SMap.eraseIf (fun k => ks.contains k) s.banks }

/-- ENABLE = 0 on a queue: at once, or once its prepared commit is settled (R201). -/
def State.disableOrWait (s : State) (Q : Nat) : State :=
  if s.preparedFor Q then s.modQueue Q (fun q => { q with disableWaiting := true }) else s.disableQueue Q

/-- Step 4: nothing of the tenant stays on the device (DEDUCED, log 67). -/
def State.clearTenant (s : State) (t : Nat) : State :=
  let s := (dieIds.foldl (fun s d => s.zeroCurdsOf d t) s).zeroBanksOf t
  let jobs := (s.jobs.filter (fun e => e.2.com.tenant == t || e.2.pend.any (fun r => r.tenant == t))).map Prod.fst
  let s := (s.raiseEach (s.prefixesOf t) srcPrefixFree).raiseEach (s.gensOf t) srcGenFreed
  let s := { s with
    chains := s.chains.filter (fun e => e.2.tag != some t)
    streams := freeRecords (fun r => r.keyed && r.tenant == t) {} s.streams
    ctxs := freeRecords (fun r => r.tenant == t) {} s.ctxs
    pfxs := freeRecords (fun r => r.tenant == t) {} s.pfxs
    -- an adapter slot keeps its last generation number (R252)
    adapters := SMap.mapAll (halves0 {}) (fun _ h =>
      h.purge (fun r => r.tenant == some t) (fun r => { lastNum := r.lastNum })) s.adapters
    jobs := freeRecords (fun r => r.tenant == t) {} s.jobs
    jobPlain := SMap.eraseIf (fun k => jobs.contains k) s.jobPlain
    pbanks := SMap.mapAll {} (fun _ b => if b.tenant.toNat = t then { b with valid := false } else b) s.pbanks
    pools := SMap.mapAll {} (fun _ b => if b.tenant.toNat = t then { b with valid := false } else b) s.pools }
  (s.queuesOwned t).foldl State.disableOrWait s

/-- Sweeps of a tenant that is gone stop. -/
def State.stopSweeps (s : State) (t : Nat) : State :=
  s.allDies (fun x =>
    let x := { x with sweepNext := x.sweepNext.filter (fun u => u != t) }
    if x.sweepActive && x.sweepTenant.toNat == t then x.nextSweep else x)

/-- Steps 3 to 5: the keys are destroyed, the device is cleared of the tenant, the tenant is absent. -/
def State.finishRemove (s : State) (t : Nat) : State :=
  let s := s.modTenant t (fun x => { x with slot0 := none, slot1 := none, transport := none })
  let s := ((s.clearTenant t).stopSweeps t).setTenant t {}
  (s.raise 0 srcTenantRemoved).logKey 2 t

/-- Steps 1 and 2 begin. -/
def State.beginRemove (s : State) (Q seq t : Nat) : State :=
  let s := s.modTenant t (fun x => { x with state := .removing, remover := some (Q, seq), removeFrom := 2 })
  (s.queuesOwned t).foldl State.revokeQueue s

/-- A REMOVE that has passed its checks: it waits for started entries, and goes on where an earlier one stopped. -/
def State.removeTenant (s : State) (Q seq t : Nat) : State × Option Code :=
  let x := s.tenant t
  let s := if x.state = .active then s.beginRemove Q seq t
    else s.modTenant t (fun x => { x with remover := some (Q, seq) })
  if x.removeFrom ≠ 3 ∧ s.tenantBusy t then (s, none) else (s.finishRemove t, some Status.ok)

/-- REMOVE_DRAIN_EXPIRY: what still runs is stopped, and the REMOVE goes on. -/
def State.drainExpired (s : State) (t : Nat) : State :=
  let x := s.tenant t
  match x.remover with
  | some r =>
    if x.state = .removing ∧ s.removerRuns x ∧ ¬ s.power.hbmOff then
      let s := (s.queuesOwned t).foldl State.stopQueue s
      (s.finishRemove t).endEntry r.1 r.2 Status.ok
    else s
  | none => s

def execRemoveDrainExpiry (tenant : Fn) (s : State) : Res := answer s (s.drainExpired tenant.val)

/-! ### IMPORT and EXPORT (R349) -/

/-- The additional data of record `i`. -/
def KeyDesc.aadOf (k : KeyDesc) (i : Nat) : List Byte := leBytes 8 k.aad.toNat ++ leBytes 4 i

/-- A page whose CLASS differs refuses the move (R348). -/
def State.classDiffers (s : State) (t : Nat) (k : KeyDesc) (p : Nat) : Bool :=
  (s.tag p).assigned && (s.tag p).owner == t && (s.tag p).cls.toNat != k.cls

/-- A byte string of a record's field: AES-256-GCM keeps the length of a page and has tags of 16 bytes
(DEDUCED, log 54). -/
def fieldBytes (n : Nat) (bs : List Byte) : List Byte := (List.range n).map (fun i => bs.getD i 0)

/-- A record of a page (R349): nonce, tag, ciphertext. -/
def pageRecord (nonce tag cipher : List Byte) : List Byte :=
  fieldBytes 12 nonce ++ leBytes 4 0 ++ fieldBytes 16 tag ++ fieldBytes 4096 cipher ++ leBytes 32 0

/-- The plaintext of a record, where its tag verifies (R349). -/
def KeyDesc.openRecord (k : KeyDesc) (key : BitVec 256) (i : Nat) (bs : List Byte) : Option (List Byte) :=
  (Config.gcmOpen key (bs.take 12) (k.aadOf i) ((bs.drop 0x20).take 4096) ((bs.drop 0x10).take 16)).map (fieldBytes 4096)

/-- The record of a page under a transport key and an export counter (R349). -/
def KeyDesc.sealRecord (k : KeyDesc) (key : BitVec 256) (ctr : Word) (i : Nat) (page : List Byte) : List Byte :=
  let nonce := leBytes 8 ctr.toNat ++ leBytes 4 i
  let o := Config.gcmSeal key nonce (k.aadOf i) page
  pageRecord nonce o.2 o.1

/-- IMPORT one page from its record. -/
def State.importPage (s : State) (t : Nat) (key : BitVec 256) (k : KeyDesc) (i : Nat) : State × Option Code :=
  let p := pageOf k.hbm + i
  if s.classDiffers t k p then (s, some Status.illegalInState)
  else match k.openRecord key i (s.hostBytes t (k.host + 4160 * i) 4160) with
  | none => (s, some Status.pageIntegrityFail)
  | some bs =>
    let r := s.reachPage t false .full p
    match r.2 with
    | some c => (r.1, some c)
    | none => (r.1.storeHbm (p * 4096) bs, none)

/-- EXPORT one page into its record. -/
def State.exportPage (s : State) (t : Nat) (key : BitVec 256) (ctr : Word) (k : KeyDesc) (i : Nat) : State × Option Code :=
  let p := pageOf k.hbm + i
  if s.classDiffers t k p then (s, some Status.illegalInState)
  else
    let r := s.reachPage t false .read p
    match r.2 with
    | some c => (r.1, some c)
    | none => (r.1.setHost t (k.host + 4160 * i) (k.sealRecord key ctr i (r.1.hbmBytes (p * 4096) 4096)), none)

/-- Pages in order; the first that fails stops the descriptor. -/
def movePages (f : State → Nat → State × Option Code) (s : State) : Nat → Nat → State × Option Code
  | 0, _ => (s, none)
  | n + 1, i =>
    let r := f s i
    match r.2 with
    | some c => (r.1, some c)
    | none => movePages f r.1 n (i + 1)

/-- IMPORT or EXPORT under the transport key `key` that the descriptor copied when it was granted. -/
def State.moveRun (s : State) (t : Nat) (key : Option (BitVec 256)) (k : KeyDesc) : State × Option Code :=
  match key with
  | none => (s, some Status.illegalInState)
  | some key =>
    if k.op = 3 then movePages (fun s i => s.importPage t key k i) s k.pages 0
    else
      let ctr := (s.tenant t).exportCtr
      movePages (fun s i => s.exportPage t key ctr k i) (s.modTenant t (fun x => { x with exportCtr := x.exportCtr + 1 })) k.pages 0

/-! ### Descriptors -/

/-- A tenant and key descriptor: the checks of R348 in order, then the operation. -/
def State.keyDesc (s : State) (Q seq : Nat) (y : Desc) : State × Option Code :=
  let k := keyDescOf y
  match s.keyCheck (dieOfQ Q) Q seq k with
  | some c => (s, some c)
  | none => match k.op with
    | 0 => (s.createTenant k.tenant, some Status.ok)
    | 1 => (s.rotateTenant k.tenant, some Status.ok)
    | 2 => s.removeTenant Q seq k.tenant
    | _ =>
      let r := s.moveRun (s.ownerOf Q) (s.transportFor Q seq) k
      (r.1, some (r.2.getD Status.ok))

def runKey (s : State) (d : DieId) (q : QId) (seq : BitVec 48) (row : Nat → Bool) : State :=
  runEntry s d q seq (fun x => x.cls == 10 && row x.op) (fun s Q x => s.keyDesc Q seq.toNat x)

/-- OP 0; an entry with a reserved OP fails here. -/
def execCreate (d : DieId) (q : QId) (seq : BitVec 48) (s : State) : Res :=
  answer s (runKey s d q seq (fun o => o == 0 || decide (5 ≤ o)))
def execRotate (d : DieId) (q : QId) (seq : BitVec 48) (s : State) : Res := answer s (runKey s d q seq (· == 1))
def execRemove (d : DieId) (q : QId) (seq : BitVec 48) (s : State) : Res := answer s (runKey s d q seq (· == 2))
def execImportPages (d : DieId) (q : QId) (seq : BitVec 48) (s : State) : Res := answer s (runKey s d q seq (· == 3))
def execExportPages (d : DieId) (q : QId) (seq : BitVec 48) (s : State) : Res := answer s (runKey s d q seq (· == 4))

/-- Key work that is not done in 200 µs ends with BUSY and no effect; a REMOVE keeps its steps 1 and 2 (R351, R352). While
a REMOVE still waits for started entries, no key work runs. -/
def State.keyTimeout (s : State) (Q seq : Nat) (y : Desc) : State × Option Code :=
  let k := keyDescOf y
  let busy := fun (s : State) =>
    ({ s with sec := { s.sec with keyBusyCount := ctrAdd s.sec.keyBusyCount 1 } }.raise 0 srcKeyBusy, some Status.busy)
  match s.keyCheck (dieOfQ Q) Q seq k with
  | some c => (s, some c)
  | none =>
    if k.op = 2 then
      let x := s.tenant k.tenant
      let s := if x.state = .active then s.beginRemove Q seq k.tenant else s
      if x.removeFrom ≠ 3 ∧ s.tenantBusy k.tenant then (s, none)
      else busy (s.modTenant k.tenant (fun x => { x with removeFrom := 3, remover := none }))
    else busy s

def execKeyWorkTimeout (d : DieId) (q : QId) (seq : BitVec 48) (s : State) : Res :=
  answer s (runEntry s d q seq (fun x => x.cls == 10 && decide (x.op ≤ 2)) (fun s Q x => s.keyTimeout Q seq.toNat x))

/-- A write of SEC_CTL with CLEAR set. -/
def execKeyBusyCountClear (s : State) : Res :=
  answer s (s.whenReady { s with sec := { s.sec with keyBusyCount := 0 } })

end Sys2Proof.Machine
end

