-- ==== Sys2Proof/Machine/Firmware.lean ====
section
/-! DEFINITION. Firmware update (R336), image-signing key slots (R337, R338) and telemetry (R352). -/

namespace Sys2Proof.Machine

/-! ### Firmware update (R336) -/

/-- An update ends with a code: BUSY clears, DONE is set (R354, R355). -/
def State.updateEnds (s : State) (code : Code) : State :=
  { s with sec := { s.sec with fwCode := code, fwBusy := false, fwSource := [] } }.raise 0 srcFwDone

/-- A write of SEC_FW_CTL: ADDR; with `go` the update starts unless one is running. -/
def State.writeFwCtl (s : State) (v : Word) (go : Bool) : State :=
  let s := { s with sec := { s.sec with fwAddr := BitVec.ofNat 64 (fld v 63 6 * 64) } }
  if !go || s.sec.fwBusy then s
  else if s.sec.fwLen = 0 ∨ 2 ^ 25 < s.sec.fwLen.toNat then s.updateEnds Status.bootFwAuthFail
  else { s with sec := { s.sec with
    fwBusy := true, fwCode := 0, fwSource := s.hostBytes 0 s.sec.fwAddr.toNat s.sec.fwLen.toNat } }

/-- UPDATE. -/
def execUpdate (v : Word) (s : State) : Res := answer s (s.whenReady (s.writeFwCtl v true))

/-- The code with which an update ends (R336). -/
def State.updateCode (s : State) (r : FlashResult) : Code :=
  match Config.firmwareSvn s.sec.fwSource with
  | none => Status.bootFwAuthFail
  | some svn =>
    if svn < s.store.fwFloor.val then Status.bootFwAuthFail
    else match r with
    | .flashFail _ _ => Status.bootFlashFail
    | .ok => Status.ok

/-- The firmware copies in the order in which an update writes and verifies them: copy B of each die, then copy A of each
(R336; the order of the dies: DEDUCED, log 137). -/
def updateOrder : List Nat := dieIds.map (fun d => 4 * d + 1) ++ dieIds.map (fun d => 4 * d)

/-- Write the image into copies. -/
def State.flashCopies (s : State) (ks : List Nat) : State := ks.foldl (fun s k => s.setFlash k (.bytes s.sec.fwSource)) s

/-- What an update leaves in the flashes: an image that fails its check writes nothing; otherwise the copies hold the image up
to one whose write or readback fails, of which the spec does not state the content (a free value, log 1); the copies after
it are untouched. -/
def State.flashAfter (s : State) (r : FlashResult) : State :=
  if s.updateCode r = Status.bootFwAuthFail then s
  else match r with
  | .ok => s.flashCopies updateOrder
  | .flashFail d b =>
    let k := 4 * d.val + bnum b
    let t := s.flashCopies (updateOrder.takeWhile (fun j => j != k))
    { t with free := t.free + 1 }.setFlash k (.bytes (leBytes 8 (Config.freeWord t.free).toNat))

/-- FIRMWARE_UPDATE_DONE. -/
def State.updateDone (s : State) (r : FlashResult) : State :=
  if !s.sec.fwBusy then s else (s.flashAfter r).updateEnds (s.updateCode r)

/-- The store after an update: the firmware floor rises to the image's SVN once every copy has verified. -/
def State.updateStore (s : State) (r : FlashResult) : Store :=
  match Config.firmwareSvn s.sec.fwSource with
  | some svn =>
    if s.sec.fwBusy && s.updateCode r == Status.ok && decide (s.store.fwFloor.val < svn) then
      { s.store with fwFloor := s.store.fwFloor.put svn }
    else s.store
  | none => s.store

def execFirmwareUpdateDone (r : FlashResult) (s : State) : Res := answerStore s (s.updateDone r) (s.updateStore r)

/-- The security version of the firmware that the primary Troroik runs (R354). -/
def State.svnRunning (s : State) : BitVec 16 := ((s.die s.primary).firmware.svn).getD 0

/-! ### Image-signing key slots (R337) -/

/-- A write of SEC_IMGKEY_CTL: ADDR and SLOT; an operation starts unless one is running (DEDUCED, log 47). Where ENROLL and
REVOKE are both 1, REVOKE acts. -/
def State.writeKeyCtl (s : State) (v : Word) (enroll revoke : Bool) : State :=
  let a := BitVec.ofNat 64 (fld v 63 6 * 64)
  let k := BitVec.ofNat 3 (fld v 4 2)
  let s := { s with sec := { s.sec with keyAddr := a, keySlot := k } }
  if s.sec.keyOp ≠ .none then s
  else if revoke then { s with sec := { s.sec with keyOp := .revoke k, keyCode := 0 } }
  else if enroll then { s with sec := { s.sec with keyOp := .enroll k a, keyCode := 0 } }
  else s

/-- ENROLL. -/
def execEnroll (v : Word) (s : State) : Res := answer s (s.whenReady (s.writeKeyCtl v true (bitAt v 1)))
/-- REVOKE. -/
def execRevoke (v : Word) (s : State) : Res := answer s (s.whenReady (s.writeKeyCtl v (bitAt v 0) true))

/-- A tenant other than 0 is active or removing. -/
def State.anyTenant (s : State) : Bool := s.sec.tenants.any (fun e => e.1 != 0 && e.2.state != .absent)

/-- The operation ends: BUSY clears, DONE is set. -/
def State.keyOpEnds (s : State) (code : Code) : State :=
  { s with sec := { s.sec with keyCode := code, keyOp := .none } }.raise 0 srcKeyDone

/-- The code with which an operation ends (R337). -/
def State.keyOpCode (s : State) : Code :=
  match s.sec.keyOp with
  | .enroll k a =>
    if !Config.onCurve (s.hostBytes 0 a.toNat 96) then Status.descFieldRange
    else if (s.imgKey k.toNat).state ≠ 0 ∨ s.anyTenant then Status.illegalInState
    else Status.ok
  | _ => Status.ok

/-- The store after an operation. A revoked slot is not empty, so it is never enrolled again. -/
def State.keyStore (s : State) : Store :=
  if s.keyOpCode ≠ Status.ok then s.store
  else match s.sec.keyOp with
  | .none => s.store
  | .revoke k =>
    s.store.setImgKey k.toNat ((s.store.imgKey k.toNat).put { s.imgKey k.toNat with state := 2 })
  | .enroll k a =>
    s.store.setImgKey k.toNat ((s.store.imgKey k.toNat).put { state := 1, key := s.hostBytes 0 a.toNat 96 })

/-- IMAGE_SIGNING_SLOT_OPERATION_END. -/
def execImageSigningSlotOperationEnd (s : State) : Res :=
  answerStore s (if s.sec.keyOp = .none then s else s.keyOpEnds s.keyOpCode) s.keyStore

/-! ### Telemetry (R352) -/

/-- TELEMETRY_REFRESH: under overload the interval doubles, up to 100 ms; otherwise it is 1 ms. -/
def State.telemetry (s : State) (overload : Bool) (load : BitVec 8) : State :=
  { s with sec := { s.sec with
    overload := overload, loadPct := load
    telemUs := if overload then BitVec.ofNat 32 (min 100000 (2 * s.sec.telemUs.toNat)) else 1000 } }

def execTelemetryRefresh (overload : Bool) (loadPct : BitVec 8) (s : State) : Res := answer s (s.telemetry overload loadPct)

end Sys2Proof.Machine
end

