-- ==== Sys2Proof/Machine/Spdm.lean ====
section
/-! DEFINITION. The SPDM mailboxes (R339 to R341), IDE streams (R342, R53) and their loss (R355). The bytes of a response
that the spec leaves to SPDM 1.2 are free (log 2). -/

namespace Sys2Proof.Machine

/-! ### Mailboxes (R339) -/

/-- The mailbox of a function. -/
def State.mailbox (s : State) (mb : Nat) : Spdm := SMap.get {} s.sec.spdm mb
def State.setMailbox (s : State) (mb : Nat) (x : Spdm) : State :=
  { s with sec := { s.sec with spdm := SMap.set {} s.sec.spdm mb x } }

/-- The primary Troroik answers. -/
def State.troroikAnswers (s : State) : Bool := s.sec.alive.getLsbD s.primary

/-- What a mailbox answers: nothing while the primary Troroik does not run, ResponseNotReady under overload (R352),
otherwise what `f` says (DESIGN CHOICE, log 68). -/
def State.spdm (s : State) (mb : Nat) (f : State → Spdm → State × Spdm) : State :=
  if !s.troroikAnswers then s
  else
    let x := s.mailbox mb
    if s.sec.overload then s.setMailbox mb { x with answer := .notReady }
    else
      let r := f s x
      r.1.setMailbox mb r.2

/-- A response of a kind with its bytes. -/
def reply (kind : Nat) (bs : List Byte) (s : State) (x : Spdm) : State × Spdm := (s, { x with answer := .rsp kind bs })

/-- A response of a kind whose bytes the spec leaves open. -/
def respond (kind : Nat) (s : State) (x : Spdm) : State × Spdm :=
  reply kind (Config.spdmPayload kind s.free) { s with free := s.free + 1 } x

/-- A refusal. -/
def refuse (s : State) (x : Spdm) : State × Spdm := (s, { x with answer := .refused })

/-! ### Identity (R335, R339) -/

/-- A digest as bytes. -/
def digest (bs : List Byte) : List Byte := leBytes 48 (Config.sha384 bs).toNat

/-- The firmware that the primary Troroik runs. -/
def State.runningFirmware (s : State) : List Byte := (s.die s.primary).firmware.content

/-- The alias key: from the identity key, which is the same at every boot, and the running firmware's digest (R335). -/
def State.aliasKey (s : State) : BitVec 384 := Config.aliasKey Config.identityKey (Config.sha384 s.runningFirmware)

/-- The certificate chain of slot 0: root, intermediate, device identity, alias. -/
def State.certChain (s : State) : List Byte :=
  Config.rootCertificate ++ Config.intermediateCertificate ++ Config.identityCertificate Config.identityKey
    ++ Config.aliasCertificate s.aliasKey

/-- A response over what stands for slot 0, signed with the alias key over it and what the requester sent (DEDUCED, log 134). Another slot is
refused: the device has slot 0 only. -/
def signedReply (kind : Nat) (slot : BitVec 8) (bs sent : List Byte) (s : State) (x : Spdm) : State × Spdm :=
  if slot ≠ 0 then refuse s x
  else reply kind (bs ++ Config.ecdsaSign s.aliasKey s.free (bs ++ sent)) { s with free := s.free + 1 } x

/-- The algorithms of the device (R339). -/
def deviceAlgs : List SpdmAlg := [.ecdsaP384, .sha384, .secp384r1, .aes256gcm]

/-- GET_VERSION: SPDM 1.2, which SPDM writes 0x12 (PRESUMED, log 48). -/
def execGetVersion (mb : Fn) (s : State) : Res := answer s (s.spdm mb.val (reply 0 [0x12]))
def execGetCapabilities (mb : Fn) (s : State) : Res := answer s (s.spdm mb.val (respond 1))
/-- NEGOTIATE_ALGORITHMS: of what is offered, the algorithms of the device; where none is, it is refused (DEDUCED, log 134). -/
def execNegotiateAlgorithms (o : AlgOffer) (s : State) : Res :=
  answer s (s.spdm o.mb.val (fun s x =>
    let xs := deviceAlgs.filter (fun a => o.algs.contains a)
    if xs.isEmpty then refuse s x else respond 2 s { x with algs := xs }))
/-- GET_DIGESTS: of the chain in slot 0. -/
def execGetDigests (mb : Fn) (s : State) : Res := answer s (s.spdm mb.val (fun s x => reply 3 (digest s.certChain) s x))
/-- GET_CERTIFICATE: a portion of the chain in slot 0. -/
def execGetCertificate (r : CertReq) (s : State) : Res :=
  answer s (s.spdm r.mb.val (fun s x =>
    if r.slot ≠ 0 then refuse s x else reply 4 ((s.certChain.drop r.offset.toNat).take r.len.toNat) s x))
/-- CHALLENGE: signed over the nonce. -/
def execChallenge (mb : Fn) (r : SlotNonce) (s : State) : Res :=
  answer s (s.spdm mb.val (fun s x => signedReply 5 r.slot (digest s.certChain) (leBytes 32 r.nonce.toNat) s x))

/-! ### Measurements (R340) -/

/-- All bytes of an image, none of an empty slot. -/
def imageBytes (im : Option Image) : List Byte :=
  match im with
  | some i => SMap.getRun 0 i.bytes 0 i.length
  | none => []

def bit64 (b : Bool) : Word := if b then 1 else 0

/-- The content of a measurement block: values and bytes. -/
def State.measure (s : State) (t i : Nat) : List Word × List Byte :=
  match i with
  | 1 => ([], Config.rom)
  | 2 => ([bit64 (s.die s.primary).copyB], s.runningFirmware)
  | 3 => ([s.svnRunning.zeroExtend 64, s.store.fwFloor.val.zeroExtend 64], [])
  | 4 => ([], imageBytes s.img.serve.image)
  | 5 => ([], imageBytes s.img.learn.image)
  | 6 => ([s.store.genServe.val.zeroExtend 64, s.store.genLearn.val.zeroExtend 64], [])
  | 7 => ([s.policy, s.vfEnable], [])
  | 8 => ((List.range 8).map (fun k => (s.imgKey k).state.zeroExtend 64), ((List.range 8).map (fun k => (s.imgKey k).key)).flatten)
  | 9 => ([Config.serial, bit64 Config.binA]
      ++ (dieIds.map (fun d => [BitVec.ofNat 64 (s.die d).wWest, BitVec.ofNat 64 (s.die d).wEast,
        (s.die d).lanes0.zeroExtend 64, (s.die d).lanes1.zeroExtend 64, (s.die d).lanes2.zeroExtend 64,
        (s.die d).lanes3.zeroExtend 64])).flatten
      ++ portIds.map (fun p => (s.port p).lanes.zeroExtend 64), [])
  | _ =>
    let x := s.tenant t
    let st : Word := match x.state with
      | .absent => 0
      | .active => 1
      | .removing => 2
    ([BitVec.ofNat 64 t, st, x.newest.zeroExtend 64, bit64 x.transport.isSome], [])

/-- A measurement block: a digest of its content, blocks 9 and 10 raw. An empty image slot gives the digest of no bytes. -/
def State.measureBlock (s : State) (t i : Nat) : List Byte :=
  let m := s.measure t i
  if i = 4 ∨ i = 5 then digest m.2
  else if i = 9 ∨ i = 10 then Config.measured i m.1 m.2
  else digest (Config.measured i m.1 m.2)

/-- GET_MEASUREMENTS of one block; index 0 asks how many there are and 0xFF for all of them (PRESUMED, log 48). Another
index is refused. A requester may ask for a signature, over its nonce. -/
def State.getMeasurements (mb : Nat) (i : Nat) (sig : Option SlotNonce) (s : State) (x : Spdm) : State × Spdm :=
  let say := fun (bs : List Byte) => match sig with
    | none => reply 6 bs s x
    | some q => signedReply 6 q.slot bs (leBytes 32 q.nonce.toNat) s x
  if i = 0 then say [10]
  else if i = 255 then say (((List.range 10).map (fun k => s.measureBlock mb (k + 1))).flatten)
  else if i ≤ 10 then say (s.measureBlock mb i)
  else refuse s x

def execGetMeasurements (mb : Fn) (r : MeasureReq) (s : State) : Res :=
  answer s (s.spdm mb.val (State.getMeasurements mb.val r.index.toNat r.signed))

/-! ### Sessions (R339, R341) -/

/-- KEY_EXCHANGE begins a session: the device's share, signed over both; one that stood on the mailbox is replaced (DESIGN
CHOICE, log 135). -/
def execKeyExchange (mb : Fn) (e : Exchange) (s : State) : Res :=
  answer s (s.spdm mb.val (fun s x =>
    if e.slot ≠ 0 then refuse s x
    else signedReply 7 e.slot (Config.ecdheShare s.free e.share) (leBytes 96 e.share.toNat) { s with free := s.free + 1 }
      { x with session := 1, keyUpdates := 0 }))
/-- FINISH establishes the session that KEY_EXCHANGE began. -/
def execFinish (mb : Fn) (s : State) : Res :=
  answer s (s.spdm mb.val (fun s x => if x.session = 1 then respond 8 s { x with session := 2 } else refuse s x))
/-- KEY_UPDATE renews the keys of an established session. -/
def execKeyUpdate (mb : Fn) (s : State) : Res :=
  answer s (s.spdm mb.val (fun s x =>
    if x.session = 2 then respond 9 s { x with keyUpdates := x.keyUpdates + 1 } else refuse s x))
/-- END_SESSION ends it. -/
def execEndSession (mb : Fn) (s : State) : Res :=
  answer s (s.spdm mb.val (fun s x =>
    if x.session = 2 then respond 10 s { x with session := 0, keyUpdates := 0 } else refuse s x))

/-- SET_TRANSPORT_KEY (R341): inside a session, of an active tenant. -/
def State.setTransport (mb : Nat) (key : BitVec 256) (s : State) (x : Spdm) : State × Spdm :=
  if x.session = 2 ∧ (s.tenant mb).state = .active then
    respond 11 (s.modTenant mb (fun t => { t with transport := some key, exportCtr := 0 })) x
  else refuse s x

def execSetTransportKey (mb : Fn) (key : BitVec 256) (s : State) : Res :=
  answer s (s.spdm mb.val (State.setTransport mb.val key))

/-! ### IDE streams (R342) -/

/-- Replace what Troroik holds of a stream. -/
def State.putIde (s : State) (st : IdeStream) (v : Option Ide) : State :=
  { s with sec := { s.sec with ide := s.sec.ide.filter (fun i => i.stream != st) ++ v.toList } }

/-- An IDE_KM message: keys programmed, the stream started, stopped. -/
def State.ideKm (s : State) (m : IdeKm) : State :=
  if !s.troroikAnswers || s.sec.overload then s
  else match m with
  | .keyProgram st key => s.putIde st (some { stream := st, key := key, range := none })
  | .goOn st fn lo hi =>
    match s.sec.ide.find? (fun i => i.stream == st) with
    | some i => s.putIde st (some { i with range := some (fn.val, lo, hi) })
    | none => s
  | .stop st => s.putIde st none

def execIdeKmRequest (m : IdeKm) (s : State) : Res := answer s (s.ideKm m)

/-- IDE_STREAM_LOST: an established stream is lost; with IDE_REQUIRED 1 its source is raised (R355). -/
def State.ideLost (s : State) (st : IdeStream) : State :=
  if s.sec.ide.any (fun i => i.stream == st && i.range.isSome) then
    (s.putIde st none).raiseIf s.ideRequired 0 srcIdeLost
  else s

def execIdeStreamLost (st : IdeStream) (s : State) : Res := answer s (s.ideLost st)

end Sys2Proof.Machine
end

