-- ==== Sys2Proof/Machine/Interrupt.lean ====
section
/-! DEFINITION. Delivery of events to MSI-X and to the Troroiks (R218 to R224), nesting on the physical function (R221,
R222), and the writes that clear flags and event counters (R215 to R217). -/

namespace Sys2Proof.Machine

/-! ### Order of delivery (R219) -/

/-- The group of a PRIORITY under GROUP_BITS. -/
def prioGroup (groupBits : BitVec 3) (prio : Nat) : Nat := prio >>> (4 - groupBits.toNat)
/-- The sub-priority: the remaining low bits. -/
def prioSub (groupBits : BitVec 3) (prio : Nat) : Nat := prio % 2 ^ (4 - groupBits.toNat)

/-- The pending sources of a die whose route satisfies `sel`, by source number. -/
def State.pendings (s : State) (d : Nat) (sel : Route → Bool) : List (Nat × Route) :=
  s.srcs.filterMap (fun e =>
    if e.2.pend && s.srcHome e.1 == d then
      match s.routeOfKey e.1 with
      | some r => if sel r then some (e.1 % 16384, r) else none
      | none => none
    else none)

/-- One pending source ranks before another: ascending group, sub-priority and source number. -/
def ranksBefore (gb : BitVec 3) (a b : Nat × Route) : Bool :=
  let ga := prioGroup gb a.2.prio
  let g := prioGroup gb b.2.prio
  let sa := prioSub gb a.2.prio
  let t := prioSub gb b.2.prio
  decide (ga < g) || (ga == g && (decide (sa < t) || (sa == t && decide (a.1 < b.1))))

/-- The highest-ranked source of a list. -/
def firstOf (gb : BitVec 3) : List (Nat × Route) → Option (Nat × Route)
  | [] => none
  | a :: rest =>
    match firstOf gb rest with
    | none => some a
    | some b => if ranksBefore gb b a then some b else some a

/-- Clear PENDING of the sources of a die whose route satisfies `sel`. -/
def State.clearPend (s : State) (d : Nat) (sel : Route → Bool) : State :=
  { s with srcs := SMap.mapAll {} (fun k x =>
      match s.routeOfKey k with
      | some r => if s.srcHome k == d && sel r then { x with pend := false } else x
      | none => x) s.srcs }

/-! ### MSI-X (R218, R221, R223) -/

/-- A message of a function may leave for a vector: MSI-X enabled, neither mask set. -/
def State.msixOpen (s : State) (fn vector : Nat) : Bool :=
  let m := s.msixOf fn
  m.enable && !m.functionMask && m.unmasked.any (fun v => v.toNat == vector)

/-- The in-service stack of the die lets a source of the PF pass: it is empty, or the group lies strictly below the top. -/
def State.nestOpen (s : State) (d : Nat) (group : Nat) : Bool :=
  match (s.die d).pfStack with
  | [] => true
  | top :: _ => decide (group < top.2.toNat)

/-- The Pending Bit Array of a function shows a vector: a source routed to it is pending while a mask, or MSI-X Enable 0, keeps its
message back (R218). -/
def State.pendingBit (s : State) (fn vector : Nat) : Bool :=
  !s.msixOpen fn vector && s.srcs.any (fun e => e.2.pend && (match s.routeOfKey e.1 with
    | some r => !r.troroik && r.fn == fn && r.vector == vector
    | none => false))

/-- A route that goes to MSI-X of a function and may be delivered now. -/
def State.canDeliver (s : State) (d fn : Nat) (r : Route) : Bool :=
  !r.troroik && r.fn == fn && s.msixOpen fn r.vector
  && (fn != 0 || s.nestOpen d (prioGroup s.groupBits r.prio))

/-- MSI-X delivery of the die is held: HOLD, or a structure switch or rollback of the die (R223). -/
def State.msixHeld (s : State) (d : Nat) : Bool := s.gHold || (s.die d).switchHold

/-- One delivery to MSI-X: the message of the highest-ranked deliverable source, its push on the PF's stack, and PENDING
of all sources of the die that share its vector. -/
def State.deliverMsix (s : State) (d fn : Nat) : State :=
  if s.msixHeld d then s
  else
    match firstOf s.groupBits (s.pendings d (s.canDeliver d fn)) with
    | none => s
    | some (_, r) =>
      let t := s.clearPend d (fun q => !q.troroik && q.fn == fn && q.vector == r.vector)
      let t := { t with msixOut := (d, fn, r.vector) :: t.msixOut }
      if fn = 0 then
        t.modDie d (fun x => { x with
          pfStack := (BitVec.ofNat 8 r.vector, BitVec.ofNat 4 (prioGroup s.groupBits r.prio)) :: x.pfStack })
      else t

/-- MSIX_DELIVER. -/
def execMsixDeliver (d : DieId) (fn : Fn) (s : State) : Res := answer s (s.deliverMsix d.val fn.val)

/-- One delivery to the die's Troroik, whenever it takes events (R220): no stack and no HOLD applies. During a structure switch or
rollback of the die it waits, since what is raised in it goes by the records that are applied when it ends (R223; DEDUCED, log 133). -/
def State.deliverTroroik (s : State) (d : Nat) : State :=
  if !s.sec.alive.getLsbD d || (s.die d).switchHold then s
  else
    match firstOf s.groupBits (s.pendings d (fun r => r.troroik)) with
    | none => s
    | some (src, _) =>
      { s.modSrc (srcKey d src) (fun x => { x with pend := false }) with troroikOut := (d, src) :: s.troroikOut }

def execTroroikEventDeliver (d : DieId) (s : State) : Res := answer s (s.deliverTroroik d.val)

/-- A change of MSI-X state by the host. The PF has 256 vectors, a VF 32 (R53). -/
def Msix.change (fn : Nat) (c : MsixChange) (m : Msix) : Msix :=
  match c with
  | .enable on => { m with enable := on }
  | .functionMask on => { m with functionMask := on }
  | .vectorMask v on =>
    if fn ≠ 0 ∧ 32 ≤ v.toNat then m
    else
      let others := m.unmasked.filter (fun w => w != v)
      { m with unmasked := if on then others else v :: others }

/-- MSIX_UNMASK: the host unmasks a vector or a function, or enables MSI-X (or the reverse). -/
def execMsixUnmask (fn : Fn) (c : MsixChange) (s : State) : Res := answer s (s.modMsixOf fn.val (Msix.change fn.val c))

/-- A write of INT_GLOBAL (R231): a GROUP_BITS above 4 stores 4. -/
def State.writeIntGlobal (s : State) (v : Word) : State :=
  { s with gHold := bitAt v 0, groupBits := BitVec.ofNat 3 (min (fld v 6 4) 4) }

/-- HOLD. -/
def execHold (v : Word) (s : State) : Res := answer s (s.whenReady (s.writeIntGlobal v))

/-! ### Completing a vector (R222) -/

/-- Record a nesting fault: the first since the flag was cleared stays; every one is an event, with its log record
(DEDUCED, log 72). -/
def State.nestFault (s : State) (d : Nat) (n : Nest) : State :=
  let t := if s.flagOf d srcNest then s else s.modDie d (fun x => { x with nest := n })
  (t.raise d srcNest).post d 0x000E Status.ok (n.expected.toNat * 256 + n.given.toNat) srcNest

/-- Remove the topmost entry of a vector. -/
def removeVector (v : BitVec 8) : List (BitVec 8 × BitVec 4) → List (BitVec 8 × BitVec 4)
  | [] => []
  | e :: rest => if e.1 = v then rest else e :: removeVector v rest

/-- INT_PF_EOI. EXPECTED is 0 where the stack is empty, as TOP_VECTOR reads. -/
def State.eoi (s : State) (d : Nat) (v : BitVec 8) : State :=
  match (s.die d).pfStack with
  | [] => s.nestFault d { notFound := true, empty := true, expected := 0, given := v }
  | top :: rest =>
    if top.1 = v then s.modDie d (fun x => { x with pfStack := rest })
    else if rest.any (fun e => e.1 == v) then
      (s.modDie d (fun x => { x with pfStack := top :: removeVector v rest })).nestFault d
        { notFound := false, empty := false, expected := top.1, given := v }
    else s.nestFault d { notFound := true, empty := false, expected := top.1, given := v }

def execIntPfEoi (d : DieId) (v : Word) (s : State) : Res := answer s (s.whenReady (s.eoi d.val (v.truncate 8)))

/-- Empty the PF stack of a die. -/
def State.emptyStack (s : State) (d : Nat) : State := s.modDie d (fun x => { x with pfStack := [] })

def execStackReset (d : DieId) (s : State) : Res := answer s (s.whenReady (s.emptyStack d.val))

/-! ### Clearing counters and flags (R214 to R217) -/

/-- CLEAR_COUNTS: every event counter of the die's source space; the package's sources stand in that of the primary die
(DEDUCED, log 71). -/
def State.clearAllCounts (s : State) (d : Nat) : State :=
  { s with srcs := SMap.mapAll {} (fun k x => if s.srcHome k == d then { x with count := 0 } else x) s.srcs }

def execClearCounts (d : DieId) (s : State) : Res := answer s (s.whenReady (s.clearAllCounts d.val))

/-- INT_SRC of a source is served in a die's window: the source is assigned and, of the package, the die is primary. -/
def State.srcServed (s : State) (d src : Nat) : Bool := srcAssigned src && (!isPkgSrc src || d == s.primary)

/-- COUNT_CLEAR of one source. -/
def State.countClearAt (s : State) (d src : Nat) : State := if s.srcServed d src then s.clearCount d src else s

def execCountClear (d : DieId) (src : BitVec 14) (s : State) : Res :=
  answer s (s.whenReady (s.countClearAt d.val src.toNat))

/-- Clear a flag; THERMTRIP's clears the latched trip too, and with it THERMTRIP_N (R67). -/
def State.clearFlagAt (s : State) (d src : Nat) : State :=
  let t := s.clearFlag d src
  if src = srcCause 5 then { t with power := { t.power with tripLatch := false, tripPin := false } } else t

/-- A flag that stands in a PWR_ register, which BAR0 serves before READY as well (R61) (DEDUCED, log 70). -/
def pwrFlag (src : Nat) : Bool := decide (0x1D00 ≤ src) && decide (src ≤ 0x1D0C)

/-- FLAG_CLEAR through a flag's named register or its INT_SRC register (R214): one storage bit, whatever the die whose
number accompanies a source of the package. A number that is not assigned names no flag. -/
def execFlagClear (d : DieId) (src : BitVec 14) (s : State) : Res :=
  answer s (if !srcAssigned src.toNat then s
    else if pwrFlag src.toNat || src.toNat == srcSkew then s.clearFlagAt d.val src.toNat
    else s.whenReady (s.clearFlagAt d.val src.toNat))

end Sys2Proof.Machine
end

