-- ==== Sys2Proof/Machine/Log.lean ====
section
/-! DEFINITION. The Thyme log's writer (R225 to R229). -/

namespace Sys2Proof.Machine

/-- The entries of the log's ring, and the numbers of one cycle (R225). -/
def logSlots : Nat := 4096
def seqCycle : Nat := 0xFFFFF000

/-- The number after a sequence number: it wraps to 1. -/
def nextSeq (n : BitVec 32) : BitVec 32 := if n.toNat = seqCycle then 1 else n + 1
/-- The slot of a sequence number. -/
def logSlot (n : BitVec 32) : Nat := (n.toNat - 1) % logSlots
/-- The key of a log slot of a die. -/
def lkey (d i : Nat) : Nat := d * logSlots + i
/-- How many numbers lie between an entry and the next number. -/
def logAge (next seq : BitVec 32) : Nat := (next.toNat + seqCycle - seq.toNat) % seqCycle

/-- The newest entry of a die's log with an event type. -/
def State.newestOf (s : State) (d : Nat) (event : BitVec 16) : Option (Nat × LogEntry) :=
  let age := fun (e : Nat × LogEntry) => logAge (s.die d).logNext e.2.seq
  (s.log.filter (fun e => e.1 / logSlots == d && e.2.seq != 0 && e.2.event == event)).foldl
    (fun best e => match best with
      | none => some e
      | some b => if age e < age b then some e else some b) none

/-- The time between two moments in ns. -/
def apart (a b : Word) : Nat := if b.toNat ≤ a.toNat then a.toNat - b.toNat else b.toNat - a.toNat

/-- A record merges into the newest entry of its EVENT (R228): same SOURCE and CODE, same DETAIL unless the queue is
overloaded, and within COALESCE_US of the first occurrence. COALESCE_US 0 disables the rule (DEDUCED, log 69). -/
def merges (coalesceUs : BitVec 16) (overload : Bool) (r : LogRec) (e : LogEntry) : Bool :=
  coalesceUs != 0 && e.source == r.source && e.code == r.code && (overload || e.detail == r.detail)
  && decide (apart r.time e.time ≤ coalesceUs.toNat * 1000)

/-- An entry after it has taken a record in: REPEAT advances, SPAN_US extends, both saturate. -/
def LogEntry.merge (e : LogEntry) (r : LogRec) : LogEntry :=
  { e with
    repeats := satAdd e.repeats 1
    spanUs := BitVec.ofNat 32 (min (max e.spanUs.toNat (apart r.time e.time / 1000)) (2 ^ 32 - 1)) }

/-- The writer takes the record at the front: it merges it, or writes a new entry over the oldest. -/
def State.writeLog (s : State) (d : Nat) : State :=
  match (s.die d).logQueue with
  | [] => s
  | r :: rest =>
    let overload := decide (192 < (s.die d).logQueue.length)
    let t := s.modDie d (fun x => { x with logQueue := rest })
    let fresh : State :=
      let n := (s.die d).logNext
      (t.setLogEntry (lkey d (logSlot n))
        { time := r.time, seq := n, code := r.code, event := r.event, detail := r.detail, repeats := 0
          source := r.source, die := BitVec.ofNat 2 d, spanUs := 0 }).modDie d (fun x => { x with logNext := nextSeq n })
    let written := match s.newestOf d r.event with
      | some (k, e) => if merges (s.die d).coalesceUs overload r e then t.setLogEntry k (e.merge r) else fresh
      | none => fresh
    written.raise d srcLogWritten

/-- THYME_RECORD_WRITE: the die's Troroik writes one record while it runs. -/
def execThymeRecordWrite (d : DieId) (s : State) : Res :=
  answer s (if s.sec.alive.getLsbD d.val then s.writeLog d.val else s)

/-- CLEAR_DROPS. -/
def State.clearDrops (s : State) (d : Nat) : State := s.modDie d (fun x => { x with logDrops := 0 })

def execClearDrops (d : DieId) (s : State) : Res := answer s (s.whenReady (s.clearDrops d.val))

end Sys2Proof.Machine
end

