-- ==== Sys2Proof/Machine/Turn.lean ====
section
/-! DEFINITION. The commands of images and the turn (R81 to R92). -/

namespace Sys2Proof.Machine

/-! ### IMG_LOAD_CTL (R81, R85) -/

/-- Begin a discard (R85). -/
def State.startDiscard (s : State) (kind : Nat) : State :=
  if kind = 0 ∨ kind = 3 then s.loadEnds Status.imgFieldRange 0
  else if s.img.turnState ≠ .idle then s.loadEnds Status.imgBusy 0
  else if (s.img.slot kind).image.isNone then s.loadEnds Status.ok 0
  else
    let s := { s with img := { s.img with work := .discarding (BitVec.ofNat 2 kind) } }
    if kind = s.img.activeKind.toNat then ({ s with img := { s.img with turnState := .drain } }).setDrains
    else { s with img := s.img.setSlot kind { (s.img.slot kind) with image := none, erasing := true } }

/-- A write of IMG_LOAD_CTL with the given LOAD and DISCARD bits (R81, R85, R94). One that finds BUSY at 1 starts nothing; its
LENGTH and DISCARD_KIND are stored all the same, unless it sets both bits (DESIGN CHOICE, log 119). -/
def State.writeLoadCtl (s : State) (v : Word) (load discard : Bool) : State :=
  let busy := s.img.work != .none
  if load && discard && busy then s
  else
    let s := { s with img := { s.img with loadLen := BitVec.ofNat 32 (fld v 63 32), discardKind := BitVec.ofNat 2 (fld v 9 8) } }
    if busy then s
    else if load && discard then s.loadEnds Status.imgFieldRange 0
    else if load then { s with img := { s.img with
      work := .loading s.img.loadAddr (BitVec.ofNat 32 (fld v 63 32)) (s.img.turnState != .idle) } }
    else if discard then s.startDiscard (fld v 9 8)
    else s

/-- LOAD (R81): a write of IMG_LOAD_CTL with LOAD = 1. -/
def execLoad (v : Word) (s : State) : Res := answer s (s.whenReady (s.writeLoadCtl v true (bitAt v 1)))

/-- The end of an image load (R81, R82): the ordered checks on the bytes in host memory, then the slot. -/
def State.loadDone (s : State) (dmaError : Bool) : State :=
  match s.img.work with
  | .loading a l turn =>
    let rd := fun o => if o < l.toNat then s.hostByte (hkey 0 (a.toNat + o)) else 0
    match s.imageCheck dmaError turn rd l.toNat with
    | some e => s.loadEnds e.1 e.2
    | none =>
      let im := parseImage rd l.toNat
      let k := im.kind.toNat
      ({ s with img := s.img.setSlot k { (s.img.slot k) with image := some im, digest := im.digest } }).loadEnds Status.ok 0
  | _ => s

def execImageLoadDone (dmaError : Bool) (s : State) : Res := answer s (s.loadDone dmaError)

/-- DISCARD (R85): a write of IMG_LOAD_CTL with DISCARD = 1. -/
def execDiscard (v : Word) (s : State) : Res := answer s (s.whenReady (s.writeLoadCtl v (bitAt v 0) true))

/-- The end of a discard (R85): of an inactive slot once its erase has ended, of the active slot once every unfenced
die has removed the structure. -/
def State.discardEnd (s : State) : State :=
  match s.img.work with
  | .discarding k =>
    if (s.img.slot k.toNat).erasing then
      ({ s with img := s.img.setSlot k.toNat { (s.img.slot k.toNat) with erasing := false } }).loadEnds Status.ok 0
    else if s.img.turnState = .switch then
      let s := (s.applyAll none).holdSwitch false
      let s := { s with img := { (s.img.setSlot k.toNat { (s.img.slot k.toNat) with image := none }) with
        structKind := 0, activeKind := 0 } }
      s.goIdle.loadEnds Status.ok 0
    else s
  | _ => s

def execDiscardDone (s : State) : Res := answer s s.discardEnd

/-- A write of IMG_GEN_FLOOR (R84): each floor only rises. -/
def Store.raiseFloors (x : Store) (v : Word) : Store :=
  { x with
    genServe := if x.genServe.val.toNat < fld v 31 0 then x.genServe.put (BitVec.ofNat 32 (fld v 31 0)) else x.genServe
    genLearn := if x.genLearn.val.toNat < fld v 63 32 then x.genLearn.put (BitVec.ofNat 32 (fld v 63 32)) else x.genLearn }

/-- The store after a write of IMG_GEN_FLOOR, which BAR0 serves from READY on (R61). -/
def State.floorStore (s : State) (v : Word) : Store := if s.power.ready then s.store.raiseFloors v else s.store

def execImgGenFloorWrite (v : Word) (s : State) : Res := answerStore s s (s.floorStore v)

/-! ### IMG_TURN_CTL (R86, R91) -/

/-- ABORT (R91; during a discard, R85). -/
def State.abortTurn (s : State) : State :=
  let discard := s.img.discarding
  match s.img.turnState with
  | .drain =>
    if discard then (s.goIdle).loadEnds Status.turnAborted 0 else (s.goIdle).turnFailed Status.turnAborted
  | .switch => if discard then s else { s with img := { s.img with abortWaiting := true } }
  | .press => s.rollback Status.turnAborted
  | .await => s.rollback Status.turnAborted
  | _ => s

/-- The code with which START is refused (R86), or none. -/
def State.startRefusal (s : State) (target : Nat) : Option Code :=
  let low := fun (x : BitVec 42) => x.toNat % 64 != 0
  if s.img.turnState ≠ .idle ∨ s.img.work ≠ .none then some Status.turnBusy
  else if target = 0 ∨ target = 3 ∨ low s.img.pressBase ∨ low s.img.mapBase ∨ low s.img.weightsNext then
    some Status.turnBadParam
  else if (s.img.slot target).image.isNone then some Status.turnNoImage
  else if target = s.img.activeKind.toNat then some Status.illegalInState
  else none

/-- The RW fields of IMG_TURN_CTL (R94): writable while STATE is idle (R86). -/
def Img.turnFields (x : Img) (v : Word) : Img :=
  { x with deadlineUs := BitVec.ofNat 16 (fld v 39 24), drainLimitUs := BitVec.ofNat 16 (fld v 23 8),
           target := BitVec.ofNat 2 (fld v 2 1) }

/-- START (R86, R88, R89). A refused START leaves every register but IMG_TURN_STATUS as it was. -/
def State.startTurn (s : State) (v : Word) : State :=
  match s.startRefusal (fld v 2 1) with
  | some c => s.turnFailed c
  | none =>
    ({ s with img := { s.img.turnFields v with
        turnState := .drain, tStart := s.time.now, tSwitch := 0, tPress := 0, tFlip := 0 } }).setDrains

/-- A write of IMG_TURN_CTL: ABORT first, START second (R86) (DEDUCED, log 84). The fields are stored where STATE is idle after
the ABORT (DESIGN CHOICE, log 121). -/
def State.writeTurnCtl (s : State) (v : Word) (abort start : Bool) : State :=
  let s := if abort then s.abortTurn else s
  if start then s.startTurn v
  else if s.img.turnState = .idle then { s with img := s.img.turnFields v } else s

def execStart (v : Word) (s : State) : Res := answer s (s.whenReady (s.writeTurnCtl v (bitAt v 3) true))
def execAbort (v : Word) (s : State) : Res := answer s (s.whenReady (s.writeTurnCtl v true (bitAt v 0)))

/-- The end of step 1 (R88, R85): once every queue has committed through its drain point or halted, the switch begins
(DEDUCED, log 103). -/
def State.drainEnd (s : State) : State :=
  if s.img.turnState = .drain ∧ s.allDrained then
    ({ s with img := { s.img with turnState := .switch, switchFenced := false, abortWaiting := false } }).holdSwitch
      (!s.img.discarding)
  else s

def execTurnDrainEnd (s : State) : Res := answer s s.drainEnd

/-- DRAIN_LIMIT_US has passed in step 1 (R88, R85). -/
def State.drainTimeout (s : State) : State :=
  if s.img.turnState = .drain then
    match s.img.work with
    | .discarding _ => s.goIdle.loadEnds Status.turnDrainTimeout 0
    | _ => s.goIdle.turnFailed Status.turnDrainTimeout
  else s

def execDrainLimitExpiry (s : State) : Res := answer s s.drainTimeout

/-- The end of step 2 (R88, R91, R92): the records are applied; a fence before the end, or an ABORT, rolls back
(DEDUCED, log 92). -/
def State.switchEnd (s : State) : State :=
  if s.img.turnState = .switch ∧ ¬ s.img.discarding then
    let failed := s.img.switchFenced
    let aborted := s.img.abortWaiting
    let s := s.applyAll (s.img.imageOf s.img.target.toNat)
    let s := { s with img := { s.img with structKind := s.img.target } }
    if failed then s.rollback Status.regionFenced
    else
      let s := { s with img := { s.img with tSwitch := s.time.now } }
      if aborted then s.rollback Status.turnAborted
      else
        let s := (s.holdSwitch false).allDies (fun x => { x with pressNext := 0 })
        let s := ({ s with img := { s.img with turnState := .press } }).clearMap
        s.releaseHeld
  else s

def execStructureSwitchEnd (s : State) : Res := answer s s.switchEnd

/-- DIE of press descriptor `i` (R294). -/
def State.pressDie (s : State) (i : Nat) : Nat :=
  (s.hbmByte (s.img.pressBase.toNat + 64 * i + 7)).toNat / 64
/-- The next descriptor of a die's press at or after a list position (R295). -/
def State.pressFind (s : State) (d i : Nat) : Option Nat :=
  ((List.range (s.img.pressCount.toNat - i)).map (fun k => i + k)).find? (fun k => s.pressDie k == d)
/-- Every die's last press descriptor has completed. -/
def State.pressAllDone (s : State) : Bool := dieIds.all (fun d => (s.pressFind d (s.die d).pressNext).isNone)

/-- The end of step 3 (R88): await, and at once the flip when every shard is present. -/
def State.pressEnds (s : State) : State :=
  if s.img.turnState = .press ∧ s.pressAllDone then
    ({ s with img := { s.img with turnState := .await, tPress := s.time.now } }).tryFlip
  else s

def execPressEnd (s : State) : Res := answer s s.pressEnds

/-- DEADLINE_US has passed since the start of step 3 (R90): every shard still awaited becomes absent. -/
def State.deadline (s : State) : State :=
  if s.img.turnState = .press ∨ s.img.turnState = .await then
    (List.range s.shardCount).foldl (fun s i => if s.shardState i = 0 then (s.markAbsent i).onwardMarker i else s) s
  else s

def execShardDeadlineExpiry (s : State) : Res := answer s s.deadline

/-- The end of a rollback (R91): the source records again, FAILED with its code. -/
def State.rollbackEnd (s : State) : State :=
  if s.img.turnState = .rollback then
    let s := (s.applyAll (s.img.imageOf s.img.activeKind.toNat)).holdSwitch false
    let s := { s with img := { s.img with structKind := s.img.activeKind } }
    s.goIdle.turnFailed s.img.rollCode
  else s

def execRollbackDone (s : State) : Res := answer s s.rollbackEnd

/-! ### LNK_RESEND (R296) -/

/-- Send bytes of a shard from a die as frames under a distribution entry, from an offset on (R284, R295, R296). -/
def State.sendShard (s : State) (home t dist hops shard : Nat) : Nat → Nat → List Byte → State
  | 0, _, _ => s
  | fuel + 1, off, bs =>
    if bs.isEmpty then s
    else
      let f : Frame := { typ := 1, vc := 1, dateline := false, tenant := BitVec.ofNat 7 t, epoch := s.linkEpoch t
                         last := bs.length ≤ 480, raised := false, w1 := shardW1 s.turnTag dist hops shard
                         w2 := packWord [(off, 32)], payload := bs.take 480 }
      (s.distribute localOrigin home dist f).sendShard home t dist hops shard fuel (off + 480) (bs.drop 480)

/-- GO of LNK_RESEND (R296). A copy that lies in sealed pages is never sent (R343, R344): the resend is refused (DEDUCED,
log 122), as it is once HBM is out of reach. -/
def State.resend (s : State) (v : Word) : State :=
  let i := fld v 63 42
  let hops := fld v 33 26
  let ok := (s.img.turnState == .press || s.img.turnState == .await) && decide (i < s.shardCount) && s.shardState i == 1
    && hops != 0 && !s.power.hbmOff && !(let c := s.shardCopy i; (rangePages c.1 c.2).any s.sealedPage)
  let s := { s with resendRefused := !ok }
  if ok then
    let c := s.shardCopy i
    let bs := s.hbmBytes c.1 c.2
    s.sendShard (hbmDie c.1) (s.tag (pageOf c.1)).owner (fld v 41 34) hops i (bs.length / 480 + 1) 0 bs
  else s

def execGo (v : Word) (s : State) : Res := answer s (s.whenReady (s.resend v))

end Sys2Proof.Machine
end

