-- ==== Sys2Proof/Machine/Press.lean ====
section
/-! DEFINITION. The press (R139, R294, R295): one descriptor of the press list. -/

namespace Sys2Proof.Machine

/-- The fields of a press descriptor (R294). -/
structure PressDesc where
  die : Nat
  src : Tensor
  trans : Bool
  sendA : Bool
  sendB : Bool
  streamOn : Bool
  stream : Nat
  conv : Conv
  rows : Nat
  cols : Nat
  dst : Nat
  dstStride : Nat
  shard : Nat
  distA : Nat
  hopsA : Nat
  distB : Nat
  hopsB : Nat
  rsv : Bool
  deriving DecidableEq, Repr

def pressOf (x : Desc) : PressDesc :=
  { die := fld x.w00 63 62
    src := { addr := fld x.w08 63 22, scale := fld x.w10 63 22, fmt := fld x.w00 61 58, blk := fld x.w00 57 55,
             stride := fld x.w20 63 48, phase := 0 }
    trans := bitAt x.w00 54, sendA := bitAt x.w00 53, sendB := bitAt x.w00 52, streamOn := bitAt x.w00 51
    stream := fld x.w00 50 40, conv := convOf (x.w00.truncate 32), rows := fld x.w08 21 0, cols := fld x.w10 21 0
    dst := fld x.w18 63 22, dstStride := fld x.w20 47 32, shard := fld x.w18 21 0
    distA := fld x.w28 63 56, hopsA := fld x.w28 55 48, distB := fld x.w28 47 40, hopsB := fld x.w28 39 32
    rsv := fld x.w00 39 32 != 0 || fld x.w20 31 0 != 0 || fld x.w28 31 0 != 0 || x.w30 != 0 || x.w38 != 0 }

/-- Stored rows of the source and the elements each holds (TRANS swaps them). -/
def PressDesc.srcRows (x : PressDesc) : Nat := if x.trans then x.cols else x.rows
def PressDesc.srcCols (x : PressDesc) : Nat := if x.trans then x.rows else x.cols
/-- Bytes of the shard: rows of elements, then the scale plane (R294). -/
def PressDesc.elemSize (x : PressDesc) : Nat := x.rows * strideBytes x.conv.fmt x.dstStride
def PressDesc.scaleSize (x : PressDesc) : Nat := x.rows * scaleStride x.dstStride x.conv.blk

/-- Bytes that the source's elements and scales span in HBM. -/
def Tensor.hbmSpan (t : Tensor) (rows n : Nat) : List (Nat × Nat) :=
  (t.spans rows n false).map (fun x => (x.base, x.stop - x.base))

/-- Check 1 of R295. -/
def State.pressBad (s : State) (x : PressDesc) : Bool :=
  x.rsv || decide (7 < x.src.fmt) || decide (4 < x.src.blk) || (x.src.blk != 0 && !canScale x.src.fmt)
  || x.conv.bad1 x.streamOn || x.rows == 0 || x.cols == 0 || x.dstStride == 0
  || x.src.bad x.srcCols || decide (x.dstStride * 128 < x.cols)
  || decide (s.shardCount ≤ x.shard)
  || (x.sendA && x.hopsA == 0) || (!x.sendA && (x.distA != 0 || x.hopsA != 0))
  || (x.sendB && x.hopsB == 0) || (!x.sendB && (x.distB != 0 || x.hopsB != 0))
  || (x.src.hbmSpan x.srcRows x.srcCols).any (fun r => !hbmIn x.die r.1 r.2)
  || !hbmIn x.die x.dst (x.elemSize + x.scaleSize)

/-- The curds of a die in which its press may stage data (R295). -/
def State.pressCurds (s : State) (d : Nat) : List Nat :=
  allCurds.filter (fun c => match s.curdOwner d c with
    | some o => o.kind == 2 && o.write
    | none => false)

/-- The checks of R295 in order, before anything is read: formats and stream against the target image, curds, fences. -/
def State.pressCheck (s : State) (x : PressDesc) (owner : Nat) : Option Code :=
  let d := x.die
  let stream := (s.stream (dkey d 2048 x.stream)).com
  if s.pressBad x then some Status.descFieldRange
  else if convOff (s.formats d) x.conv || !s.fmtOn d x.src.fmt || !s.blkOn d x.src.blk
      || (x.streamOn && (!stream.keyed || stream.tenant != owner)) then some Status.illegalInState
  else if (s.pressCurds d).length < 4 then some Status.curdNotOwned
  else if (s.die d).fenced || (s.die d).bootStep != 0
      || (s.pressCurds d).any (fun c => (s.die d).regionFenced (halfOfCurd c)) then some Status.regionFenced
  else none

/-- The exact value of destination element (r, c); NF2 reads a subnormal source as zero (R141). -/
def PressDesc.value (x : PressDesc) (rd : Nat → Byte) (r c : Nat) : Val :=
  let i := if x.trans then c else r
  let j := if x.trans then r else c
  if x.conv.nf2 && isSubnormal x.src.fmt (x.src.elem rd i j).1 then .fin 0 0 else x.src.val rd i j

/-- One destination row: scale codes and elements (R131, R139). The draw index is the element's position. -/
def PressDesc.row (x : PressDesc) (rd : Nat → Byte) (st : Stream) (r : Nat) : List Nat × List Nat × ConvCount :=
  convertRow x.conv (x.cols + 1) ((List.range x.cols).map (fun c =>
    (x.value rd r c, if x.conv.rnd = 2 then st.draw (r * x.cols + c) % 2 ^ 16 else 0)))

/-- Bytes padded with zeros to a length. -/
def padTo (n : Nat) (bs : List Byte) : List Byte := bs ++ List.replicate (n - bs.length) 0

/-- The bytes of the shard (R294, R125). -/
def PressDesc.bytes (x : PressDesc) (rows : List (List Nat × List Nat × ConvCount)) : List Byte :=
  (rows.map (fun r => padTo (strideBytes x.conv.fmt x.dstStride) (packElems x.conv.fmt r.2.1))).flatten
  ++ (rows.map (fun r => padTo (scaleStride x.dstStride x.conv.blk) (r.1.map (fun v => BitVec.ofNat 8 v)))).flatten

/-- The pages of the source, in the order in which they are read. -/
def PressDesc.srcPages (x : PressDesc) : List Nat := (x.src.hbmSpan x.srcRows x.srcCols).flatMap (fun r => rangePages r.1 r.2)

/-- Read the source for its owner (R179, R295); a sealed page is not read to be sent (R343). -/
def State.pressRead (s : State) (x : PressDesc) (owner : Nat) : State × Option Code :=
  if x.sendA || x.sendB then s.reachOpen owner x.srcPages else s.reachAll owner false .read x.srcPages

/-- Write the bytes of a shard at DST_ADDR (R295), unless the shard is present: its data is never rewritten (R90)
(DEDUCED, log 86). Pages of another CLASS than a sealed source refuse it (R343). -/
def State.pressWrite (s : State) (x : PressDesc) (owner : Nat) (bs : List Byte) : State × Option Code :=
  if s.shardState x.shard = 1 then (s, none)
  else
    let w := s.writeMoved owner false x.srcPages x.dst bs
    match w.2 with
    | some c => (w.1, some c)
    | none =>
      ({ w.1 with img := { w.1.img with copies := SMap.set none w.1.img.copies x.shard (some (BitVec.ofNat 42 x.dst, bs.length)) } },
        none)

/-- A press that finds too few curds to stage its data is recorded as a violation (R170). It names no curd and runs on no queue:
both fields take free values (log 1). -/
def State.pressViolation (s : State) (d : Nat) : State :=
  { s with free := s.free + 2 }.violation d ((Config.freeWord s.free).toNat % 1024) Status.curdNotOwned
    ((Config.freeWord (s.free + 1)).toNat % 640)

/-- Run a press descriptor: the state after it, and the status with which it failed. -/
def State.pressRun (s : State) (x : PressDesc) : State × Option Code :=
  let d := x.die
  let owner := (s.tag (pageOf x.src.addr)).owner
  match s.pressCheck x owner with
  | some c => (if c = Status.curdNotOwned then s.pressViolation d else s, some c)
  | none =>
    let r := s.pressRead x owner
    match r.2 with
    | some c => (r.1, some c)
    | none =>
      let s := r.1
      let st := (s.stream (dkey d 2048 x.stream)).com
      let rows := (List.range x.rows).map (fun i => x.row s.hbmRd st i)
      let bs := x.bytes rows
      let s := s.countConv d (rows.foldl (fun a r => a.add r.2.2) {})
      let w := s.pressWrite x owner bs
      match w.2 with
      | some c => (w.1, some c)
      | none =>
        let s := w.1.markPresent x.shard
        let s := if x.sendA then s.sendShard d owner x.distA x.hopsA x.shard (bs.length / 480 + 1) 0 bs else s
        (if x.sendB then s.sendShard d owner x.distB x.hopsB x.shard (bs.length / 480 + 1) 0 bs else s, none)

/-- The press of a die takes its next descriptor of the list (R295); one that fails ends the turn (R88). -/
def State.pressNextOf (s : State) (d : DieId) : State :=
  if s.img.turnState = .press ∧ ¬ s.power.hbmOff then
    match s.pressFind d.val (s.die d.val).pressNext with
    | none => s
    | some i =>
      let a := s.img.pressBase.toNat + 64 * i
      let r := s.pressRun (pressOf (descOfBytes (s.hbmBytes a 64)))
      let s := r.1.modDie d.val (fun x => { x with pressNext := i + 1 })
      match r.2 with
      | none => s
      | some c =>
        let s := s.storeHbm (a + 0x3E) (leBytes 2 c.toNat)
        ({ s with pressCode := c, pressIndex := BitVec.ofNat 22 i }).rollback Status.turnPressFail
  else s

/-- PRESS_DESCRIPTOR. -/
def execPressDescriptor (d : DieId) (s : State) : Res := answer s (s.pressNextOf d)

end Sys2Proof.Machine
end

