-- ==== Sys2Proof/Machine/Regs.lean ====
section
/-! DEFINITION. Counter clears that are rows of their own, and REGISTER_WRITE: every address of BAR0 and what a write of
it does (R16, R19). A register with rows of its own goes through the same operations as those rows. -/

namespace Sys2Proof.Machine

/-! ### Counter clears (R137, R164, R189, R257, R309, R332) -/

def Die.clearConv (x : Die) : Die :=
  { x with satCount := 0, ovfCount := 0, nonfiniteCount := 0, clampCount := 0, intSatCount := 0 }
def Die.clearUpd (x : Die) : Die := { x with updSkip := 0, updParams := 0 }
def Die.clearVatCounts (x : Die) : Die := { x with violCount := 0, vatCeCount := 0 }
def Stack.clearCounts (k : Stack) : Stack := { k with ceCount := 0, ueCount := 0 }
def Die.clearMem (x : Die) : Die :=
  { x with
    integFail := 0, keyMissing := 0
    stack0 := x.stack0.clearCounts, stack1 := x.stack1.clearCounts, stack2 := x.stack2.clearCounts }
def Die.clearTokens (x : Die) : Die := { x with tokens := [] }
def Port.clearCounts (x : Port) : Port := { x with crcCount := 0, replayCount := 0, staleCount := 0, lostCount := 0 }

/-- CLEAR of LNK_CTL: the counts of the die's two ports, its tenant drops and RAISES of its jobs (R309). -/
def State.clearLinks (s : State) (d : Nat) : State :=
  let s := (s.modPort (2 * d) Port.clearCounts).modPort (2 * d + 1) Port.clearCounts
  let s := s.modDie d (fun x => { x with tenantDrops := 0 })
  { s with jobPlain := SMap.mapAll {} (fun k x => if k / 4096 == d then { x with raises := 0 } else x) s.jobPlain }

def execConvCountersClear (d : DieId) (s : State) : Res := answer s (s.whenReady (s.modDie d.val Die.clearConv))
def execUpdCountersClear (d : DieId) (s : State) : Res := answer s (s.whenReady (s.modDie d.val Die.clearUpd))
def execVatCountersClear (d : DieId) (s : State) : Res := answer s (s.whenReady (s.modDie d.val Die.clearVatCounts))
def execMemCountersClear (d : DieId) (s : State) : Res := answer s (s.whenReady (s.modDie d.val Die.clearMem))
def execCtxTokensClear (d : DieId) (s : State) : Res := answer s (s.whenReady (s.modDie d.val Die.clearTokens))
def execLnkCountersClear (d : DieId) (s : State) : Res := answer s (s.whenReady (s.clearLinks d.val))
def execCkptMismatchClear (d : DieId) (s : State) : Res :=
  answer s (s.whenReady (s.modDie d.val (fun x => { x with mismatchCount := 0 })))

/-! ### Queue slots (R192, R211) -/

/-- Bits 63:6 and bit 0: ADDR and SPACE. -/
def areaBits (v : Word) : Word := packWord [(fld v 63 6, 6), (fld v 0 0, 0)]

/-- A write at an offset of a queue's slot by a function. -/
def State.writeQueueReg (s : State) (Q : Nat) (fn : Fn) (o : Nat) (v : Word) : State :=
  let own := s.mayWrite Q fn
  if o = 0x00 then
    if own && !(s.queue Q).enable then s.modQueue Q (fun q => { q with ringBase := areaBits v }) else s
  else if o = 0x08 then if bitAt v 6 then s.enableQueue Q fn v else s.queueDisable Q fn v
  else if o = 0x10 then
    if own && !(s.queue Q).enable then s.modQueue Q (fun q => { q with cplBase := areaBits v }) else s
  else if o = 0x18 then s.ring Q fn (fld v 47 0) none
  else if o = 0x38 then if own && bitAt v 4 then s.clearFlag (dieOfQ Q) (srcOverrun Q) else s
  else if o = 0x48 then
    if bitAt v 1 then s.queueReset Q fn else if bitAt v 0 then s.resume Q fn else s
  else s

/-! ### The die window (R16) -/

/-- A write of CTL of a counter block (R40). -/
def State.writeBlockCtl (s : State) (c : Cluster) (v : Word) : State :=
  (s.modBlock (clusterKey c) (fun b =>
    let b := { b with eventSel := BitVec.ofNat 8 (fld v 23 16), freeze := bitAt v 2 }
    if bitAt v 1 then b.clearCounters else b)).gateCluster c (bitAt v 0)

/-- The cluster whose block starts at an offset. -/
def clusterAt (d : DieId) (o : Nat) : Option Cluster :=
  let i := (o - 0x200000) / 0x40
  if o < 0x200000 ∨ o % 0x40 ≠ 0 then none
  else if h : i < 128 then some (.tile d ⟨i, h⟩)
  else if h : i - 128 < 4 then some (.vec d ⟨i - 128, h⟩)
  else if h : i - 132 < 2 then some (.port d ⟨i - 132, h⟩)
  else none

/-- A write of MEM_KV_POOL_A_n and _B_n (R257): the fields only while VALID is 0. -/
def Pool.writeA (x : Pool) (v : Word) : Pool :=
  if x.valid then { x with valid := bitAt v 0 }
  else { x with base := BitVec.ofNat 30 (fld v 63 34), blocks := BitVec.ofNat 30 (fld v 33 4), valid := bitAt v 0 }
def Pool.writeB (x : Pool) (v : Word) : Pool :=
  if x.valid then x
  else { x with tpb := BitVec.ofNat 13 (fld v 63 51), layers := BitVec.ofNat 9 (fld v 50 42),
                tokenBytes := BitVec.ofNat 16 (fld v 41 26), tenant := BitVec.ofNat 7 (fld v 25 19) }

/-- The engines' registers: 0x0030_0000 to 0x0037_FFFF. -/
def State.writeEngineReg (s : State) (d o : Nat) (v : Word) : State :=
  if o = 0x300010 then s.w1c d v [(3, srcArray .west 0), (2, srcArray .west 1), (1, srcArray .west 2)]
  else if o = 0x300018 then s.w1c d v [(3, srcArray .east 0), (2, srcArray .east 1), (1, srcArray .east 2)]
  else if o = 0x320008 then s.w1c d v [(0, srcVecNan)]
  else if o = 0x320100 then s.modDie d (fun x => { x with streamSel := BitVec.ofNat 11 (fld v 10 0) })
  else if o = 0x340000 then
    s.w1c d v [(0, srcConv 0), (1, srcConv 1), (2, srcConv 2), (3, srcConv 3), (4, srcConv 4)]
  else if o = 0x340030 then if bitAt v 0 then s.modDie d Die.clearConv else s
  else if o = 0x360000 then s.w1c d v [(3, srcUpdSkip)]
  else if o = 0x360018 then if bitAt v 0 then s.modDie d Die.clearUpd else s
  else s

/-- The registers of the Vat and of HBM: 0x0038_0000 to 0x003B_FFFF. -/
def State.writeMemReg (s : State) (d o : Nat) (v : Word) : State :=
  let stackW1c := fun (st : Nat) => s.w1c d v [(0, srcStack st 0), (1, srcStack st 1), (2, srcStack st 2)]
  if o = 0x380000 then s.w1c d v [(0, srcViolation), (1, srcViolationMulti)]
  else if o = 0x380010 then s.w1c d v [(0, srcVatCe), (1, srcVatUe)]
  else if o = 0x380020 then if bitAt v 0 then s.modDie d Die.clearVatCounts else s
  else if o = 0x3A0000 then stackW1c 0
  else if o = 0x3A0008 then stackW1c 1
  else if o = 0x3A0010 then stackW1c 2
  else if o = 0x3A0078 then s.modDie d (fun x => { x with sweepRate := BitVec.ofNat 16 (fld v 15 0) })
  else if o = 0x3A0088 then if bitAt v 0 then s.modDie d Die.clearMem else s
  else if 0x3A0100 ≤ o ∧ o < 0x3A0180 then
    let n := (o - 0x3A0100) / 16
    s.modPool (dkey d 8 n) (fun x => if o % 16 = 0 then x.writeA v else x.writeB v)
  else s

/-- A write of INT_SRC of a source (R230). -/
def State.writeIntSrc (s : State) (d src : Nat) (v : Word) : State :=
  if s.srcServed d src then
    let s := if bitAt v 63 then s.clearCount d src else s
    if bitAt v 16 then s.clearFlagAt d src else s
  else s

/-- The registers of interrupts and of the log: 0x0050_0000 to 0x006F_FFFF. -/
def State.writeIntReg (s : State) (d o : Nat) (v : Word) : State :=
  if o = 0x500000 then
    let s := if bitAt v 0 then s.clearAllCounts d else s
    if bitAt v 1 then s.emptyStack d else s
  else if o = 0x500008 then s.eoi d (v.truncate 8)
  else if o = 0x500018 then s.w1c d v [(16, srcNest)]
  else if 0x510000 ≤ o ∧ o < 0x530000 ∧ o % 8 = 0 then s.writeIntSrc d ((o - 0x510000) / 8) v
  else if o = 0x600010 then
    let s := s.modDie d (fun x => { x with coalesceUs := BitVec.ofNat 16 (fld v 31 16) })
    if bitAt v 0 then s.clearDrops d else s
  else s

/-- The registers of serving, checkpoint and the links: 0x0070_0000 on. -/
def State.writeLinkReg (s : State) (d o : Nat) (v : Word) : State :=
  let port := fun (p : Nat) => s.w1c d v [(0, srcPortDown p), (1, srcPortExhausted p), (2, srcPortMiswired p)]
  let limit := fun (p : Nat) => s.modPort (2 * d + p) (fun x =>
    { x with replayLimit := BitVec.ofNat 4 (max 1 (fld v 3 0)) })
  if o = 0x700080 then if bitAt v 0 then s.modDie d Die.clearTokens else s
  else if o = 0x705000 then s.writeSlot d 0 v
  else if o = 0x705010 then s.writeSlot d 1 v
  else if o = 0x705020 then s.writeSlot d 2 v
  else if o = 0x705030 then s.w1c d v [(3, srcMismatch)]
  else if o = 0x705040 then if bitAt v 0 then s.modDie d (fun x => { x with mismatchCount := 0 }) else s
  else if o = 0x800000 then port 0
  else if o = 0x800040 then port 1
  else if o = 0x800008 then limit 0
  else if o = 0x800048 then limit 1
  else if o = 0x800088 then if bitAt v 0 then s.clearLinks d else s
  else if o = 0x800090 then s.jobReset d v
  else s

/-- A write in the window of a die by the PF. -/
def State.writeDieReg (s : State) (d : DieId) (o : Nat) (v : Word) : State :=
  if o = 0x100010 then if bitAt v 0 then s.dieReset d.val else s
  else s.whenReady (
    if o < 0x300000 then
      match clusterAt d o with
      | some c => s.writeBlockCtl c v
      | none => s
    else if o < 0x380000 then s.writeEngineReg d.val o v
    else if o < 0x400000 then s.writeMemReg d.val o v
    else if o < 0x440000 then
      s.writeQueueReg (d.val * 1024 + (o - 0x400000) / 256) 0 (o % 256) v
    else if o < 0x700000 then s.writeIntReg d.val o v
    else s.writeLinkReg d.val o v)

/-! ### The package registers (R16) -/

/-- Clear flags of the package through their register, PWR_RESET_CAUSE among them (R67). -/
def State.w1cPkg (s : State) (v : Word) (bits : List (Nat × Nat)) : State :=
  bits.foldl (fun s b => if bitAt v b.1 then s.clearFlagAt 0 b.2 else s) s

/-- The registers that BAR0 serves before READY (R61), but for those that are only read. -/
def State.writePwrReg (s : State) (o : Nat) (v : Word) : State :=
  if o = 0x108 then s.w1cPkg v [(1, srcSkew)]
  else if o = 0x208 then s.w1cPkg v ((List.range 9).map (fun i => (i, srcCause i)))
  else if o = 0x210 then if bitAt v 0 then s.busReset 4 false else s
  else if o = 0x218 then
    { s with power := s.power.writeCap (BitVec.ofNat 11 (fld v 26 16)) (BitVec.ofNat 10 (fld v 9 0)) }
  else if o = 0x220 then s.w1cPkg v [(1, srcCapUnmet), (2, srcThermalHigh), (3, srcAvsFault), (6, srcDroop)]
  else s

/-- A register that can be written only while the turn STATE is idle (R86, R310). -/
def State.whenIdle (s : State) (x : Img) : State := if s.img.turnState = .idle then { s with img := x } else s

/-- The image and turn registers (R94), but for IMG_GEN_FLOOR, whose fields stand in the sealed store. -/
def State.writeImgReg (s : State) (o : Nat) (v : Word) : State :=
  if o = 0x300 then { s with img := { s.img with loadAddr := BitVec.ofNat 64 (fld v 63 6 * 64) } }
  else if o = 0x308 then s.writeLoadCtl v (bitAt v 0) (bitAt v 1)
  else if o = 0x310 then s.w1cPkg v [(1, srcImgDone)]
  else if o = 0x318 then s.w1cPkg v [(1, srcDiscarded 1)]
  else if o = 0x320 then s.w1cPkg v [(1, srcDiscarded 2)]
  else if o = 0x330 then s.writeTurnCtl v (bitAt v 3) (bitAt v 0)
  else if o = 0x338 then
    s.whenIdle { s.img with pressCount := BitVec.ofNat 22 (fld v 63 42), pressBase := BitVec.ofNat 42 (fld v 41 0) }
  else if o = 0x340 then
    s.whenIdle { s.img with expected := BitVec.ofNat 22 (fld v 63 42), mapBase := BitVec.ofNat 42 (fld v 41 0) }
  else if o = 0x350 then s.whenIdle { s.img with weightsNext := BitVec.ofNat 42 (fld v 41 0) }
  else if o = 0x360 then s.w1cPkg v [(0, srcTurnDone), (1, srcTurnFailed), (2, srcTurnAbsent)]
  else s

/-- A write of MEM_PBANK_A_n and _B_n (R188): the fields only while VALID is 0; CURRENT is not written. -/
def PBank.writeA (x : PBank) (v : Word) : PBank :=
  if x.valid then x
  else { x with base0 := BitVec.ofNat 30 (fld v 63 34), base1 := BitVec.ofNat 30 (fld v 33 4) }
def PBank.writeB (x : PBank) (v : Word) : PBank :=
  if x.valid then { x with valid := bitAt v 0 }
  else { x with pages := BitVec.ofNat 30 (fld v 63 34), tenant := BitVec.ofNat 7 (fld v 33 27), valid := bitAt v 0 }

/-- The registers of the time samples, of the pair, of delivery, of security and of distribution. -/
def State.writePkgReg (s : State) (o : Nat) (v : Word) : State :=
  if o = 0x110 then
    let s := if bitAt v 0 then { s with time := { s.time with sample := s.time.now } }.freezeBlocks true else s
    if bitAt v 1 then s.freezeBlocks false else s
  else if o = 0x120 then s.timeSet v
  else if o = 0x600 then s.w1cPkg v [(4, srcDegraded)]
  else if o = 0x608 then
    let s := { s with pair := { s.pair with timeoutMs := BitVec.ofNat 16 (fld v 31 16) } }
    if bitAt v 0 then s.takeOver else s
  else if o = 0x700 then s.writeIntGlobal v
  else if o = 0xA80 then s.writeKeyCtl v (bitAt v 0) (bitAt v 1)
  else if o = 0xA88 then s.w1cPkg v [(1, srcKeyDone)]
  else if o = 0xA90 then s.writeFwCtl v (bitAt v 0)
  else if o = 0xA98 then { s with sec := { s.sec with fwLen := BitVec.ofNat 32 (fld v 63 32) } }
  else if o = 0xAA0 then s.w1cPkg v [(1, srcFwDone)]
  else if o = 0xAB8 then if bitAt v 0 then { s with sec := { s.sec with keyBusyCount := 0 } } else s
  else if o = 0x8000 then
    if s.img.turnState = .idle then { s with shardTable := BitVec.ofNat 42 (fld v 41 6 * 64) } else s
  else if o = 0x8010 then if bitAt v 0 then s.resend v else s
  else if 0x400 ≤ o ∧ o < 0x500 then
    s.modPbank ((o - 0x400) / 16) (fun x => if o % 16 = 0 then x.writeA v else x.writeB v)
  else if 0x9000 ≤ o ∧ o < 0x9800 then
    if s.img.turnState = .idle then
      s.setDistEntry ((o - 0x9000) / 8) (BitVec.ofNat 16 (fld v 15 8 * 256 + fld v 0 0))
    else s
  else s

/-- A write of a package register by the PF. -/
def State.writePackageReg (s : State) (o : Nat) (v : Word) : State :=
  if o = 0x108 ∨ (0x200 ≤ o ∧ o < 0x300) then s.writePwrReg o v
  else if 0x300 ≤ o ∧ o < 0x400 then s.whenReady (s.writeImgReg o v)
  else s.whenReady (s.writePkgReg o v)

/-! ### REGISTER_WRITE -/

/-- A write of BAR0 of a function. An address that no register occupies, and a register that is only read, take no
effect (R16, R19). A VF's BAR0 holds the slots of the queues bound to it (R192). -/
def State.writeReg (s : State) (fn : Fn) (a : Nat) (v : Word) : State :=
  if a % 8 ≠ 0 then s
  else if fn ≠ 0 then
    if a < 2 ^ 20 ∧ s.mayWrite (a / 256) fn then s.whenReady (s.writeQueueReg (a / 256) fn (a % 256) v) else s
  else if h : a / 0x1000000 < 4 then s.writeDieReg ⟨a / 0x1000000, h⟩ (a % 0x1000000) v
  else s.writePackageReg (a - 0x4000000) v

/-- The store after a write of BAR0: IMG_GEN_FLOOR alone is in it. -/
def State.writeStore (s : State) (fn : Fn) (a : Nat) (v : Word) : Store :=
  if fn = 0 ∧ a = 0x4000328 then s.floorStore v else s.store

def execRegisterWrite (fn : Fn) (addr : BitVec 27) (v : Word) (s : State) : Res :=
  answerStore s (s.writeReg fn addr.toNat v) (s.writeStore fn addr.toNat v)

end Sys2Proof.Machine
end

