-- ==== Sys2Proof/Machine/Dispatch.lean ====
section
/-! DEFINITION. The meaning of each command: one arm for each row of spec/opcode_table.json. -/

namespace Sys2Proof.Machine

/-- The effect of a command on everything but the queue of commands (its rules are cited at each meaning). -/
def exec (i : Instr) (s : State) : Host.Outcome State Fault Refusal :=
  match i with
  | .powerOnReset cause aonKept feed => Sys2Proof.Machine.execPowerOnReset cause aonKept feed s
  | .pwrgdFall => Sys2Proof.Machine.execPwrgdFall s
  | .perstN => Sys2Proof.Machine.execPerstN s
  | .perstDeassert => Sys2Proof.Machine.execPerstDeassert s
  | .hotReset => Sys2Proof.Machine.execHotReset s
  | .pkgReset => Sys2Proof.Machine.execPkgReset s
  | .pfFunctionLevelReset => Sys2Proof.Machine.execPfFunctionLevelReset s
  | .vfFunctionLevelReset vf => Sys2Proof.Machine.execVfFunctionLevelReset vf s
  | .dieReset d => Sys2Proof.Machine.execDieReset d s
  | .troroikWatchdog d => Sys2Proof.Machine.execTroroikWatchdog d s
  | .startupStepEnd sc r => Sys2Proof.Machine.execStartupStepEnd sc r s
  | .configRequest r => Sys2Proof.Machine.execConfigRequest r s
  | .coreDroop lowestMv durationNs => Sys2Proof.Machine.execCoreDroop lowestMv durationNs s
  | .coreUndervoltExpiry feed => Sys2Proof.Machine.execCoreUndervoltExpiry feed s
  | .railOutOfRange rail => Sys2Proof.Machine.execRailOutOfRange rail s
  | .refclkALoss => Sys2Proof.Machine.execRefclkALoss s
  | .pcieRefclkLoss => Sys2Proof.Machine.execPcieRefclkLoss s
  | .lnkRefclkLoss d => Sys2Proof.Machine.execLnkRefclkLoss d s
  | .hostLinkDown => Sys2Proof.Machine.execHostLinkDown s
  | .hostLinkTrained x16 gt64 => Sys2Proof.Machine.execHostLinkTrained x16 gt64 s
  | .thermalSample d readings => Sys2Proof.Machine.execThermalSample d readings s
  | .powerSample watts => Sys2Proof.Machine.execPowerSample watts s
  | .capWindowEnd => Sys2Proof.Machine.execCapWindowEnd s
  | .voltageStep => Sys2Proof.Machine.execVoltageStep s
  | .avsAck => Sys2Proof.Machine.execAvsAck s
  | .avsAckTimeout => Sys2Proof.Machine.execAvsAckTimeout s
  | .avsRetry => Sys2Proof.Machine.execAvsRetry s
  | .pwrCapWrite capW vmaxMv => Sys2Proof.Machine.execPwrCapWrite capW vmaxMv s
  | .coreRateRefresh d mv mhz => Sys2Proof.Machine.execCoreRateRefresh d mv mhz s
  | .gate c on => Sys2Proof.Machine.execGate c on s
  | .clusterWakeDone c => Sys2Proof.Machine.execClusterWakeDone c s
  | .freeze c on => Sys2Proof.Machine.execFreeze c on s
  | .clear c => Sys2Proof.Machine.execClear c s
  | .freezeAll => Sys2Proof.Machine.execFreezeAll s
  | .release => Sys2Proof.Machine.execRelease s
  | .handshakeTimeout d h => Sys2Proof.Machine.execHandshakeTimeout d h s
  | .accParityError d h => Sys2Proof.Machine.execAccParityError d h s
  | .troroikSilentTimeout d => Sys2Proof.Machine.execTroroikSilentTimeout d s
  | .hbmCatastrophicError d st why => Sys2Proof.Machine.execHbmCatastrophicError d st why s
  | .patrolScrubAccess d st => Sys2Proof.Machine.execPatrolScrubAccess d st s
  | .hbmRefresh d st => Sys2Proof.Machine.execHbmRefresh d st s
  | .sweepPage d => Sys2Proof.Machine.execSweepPage d s
  | .sweepEnd tenant => Sys2Proof.Machine.execSweepEnd tenant s
  | .timestampSend => Sys2Proof.Machine.execTimestampSend s
  | .timestampFrameRx p h f => Sys2Proof.Machine.execTimestampFrameRx p h f s
  | .logTimeSet v => Sys2Proof.Machine.execLogTimeSet v s
  | .load v => Sys2Proof.Machine.execLoad v s
  | .imageLoadDone dmaError => Sys2Proof.Machine.execImageLoadDone dmaError s
  | .discard v => Sys2Proof.Machine.execDiscard v s
  | .discardDone => Sys2Proof.Machine.execDiscardDone s
  | .imgGenFloorWrite v => Sys2Proof.Machine.execImgGenFloorWrite v s
  | .start v => Sys2Proof.Machine.execStart v s
  | .abort v => Sys2Proof.Machine.execAbort v s
  | .turnDrainEnd => Sys2Proof.Machine.execTurnDrainEnd s
  | .drainLimitExpiry => Sys2Proof.Machine.execDrainLimitExpiry s
  | .structureSwitchEnd => Sys2Proof.Machine.execStructureSwitchEnd s
  | .pressDescriptor d => Sys2Proof.Machine.execPressDescriptor d s
  | .pressEnd => Sys2Proof.Machine.execPressEnd s
  | .shardDeadlineExpiry => Sys2Proof.Machine.execShardDeadlineExpiry s
  | .rollbackDone => Sys2Proof.Machine.execRollbackDone s
  | .go v => Sys2Proof.Machine.execGo v s
  | .shardFrameRx p h f => Sys2Proof.Machine.execShardFrameRx p h f s
  | .absentMarkerRx p h f => Sys2Proof.Machine.execAbsentMarkerRx p h f s
  | .doorbell d q fn tail ide => Sys2Proof.Machine.execDoorbell d q fn tail ide s
  | .doorbellAck d q => Sys2Proof.Machine.execDoorbellAck d q s
  | .entryFetch d q => Sys2Proof.Machine.execEntryFetch d q s
  | .entryStart d q => Sys2Proof.Machine.execEntryStart d q s
  | .entryComplete d q seq => Sys2Proof.Machine.execEntryComplete d q seq s
  | .resumeSkip d q fn => Sys2Proof.Machine.execResumeSkip d q fn s
  | .queueReset d q fn => Sys2Proof.Machine.execQueueReset d q fn s
  | .queueEnable d q fn v => Sys2Proof.Machine.execQueueEnable d q fn v s
  | .queueDisable d q fn v => Sys2Proof.Machine.execQueueDisable d q fn v s
  | .noOperation d q seq => Sys2Proof.Machine.execNoOperation d q seq s
  | .arrayOneHalf d q seq => Sys2Proof.Machine.execArrayOneHalf d q seq s
  | .arrayGanged d q seq => Sys2Proof.Machine.execArrayGanged d q seq s
  | .arrayGradientPair d q seq => Sys2Proof.Machine.execArrayGradientPair d q seq s
  | .vectorTensor d q seq => Sys2Proof.Machine.execVectorTensor d q seq s
  | .accumulatorReadout d q seq => Sys2Proof.Machine.execAccumulatorReadout d q seq s
  | .chainLoad d q seq => Sys2Proof.Machine.execChainLoad d q seq s
  | .copy d q seq => Sys2Proof.Machine.execCopy d q seq s
  | .pageAssign d q seq => Sys2Proof.Machine.execPageAssign d q seq s
  | .pageRelease d q seq => Sys2Proof.Machine.execPageRelease d q seq s
  | .momentumSgdUpdate d q seq => Sys2Proof.Machine.execMomentumSgdUpdate d q seq s
  | .adamUpdate d q seq => Sys2Proof.Machine.execAdamUpdate d q seq s
  | .signMomentumUpdate d q seq => Sys2Proof.Machine.execSignMomentumUpdate d q seq s
  | .plainCommit d q seq => Sys2Proof.Machine.execPlainCommit d q seq s
  | .tokenCommit d q seq => Sys2Proof.Machine.execTokenCommit d q seq s
  | .stepCommit d q seq => Sys2Proof.Machine.execStepCommit d q seq s
  | .stepReplayCommit d q seq => Sys2Proof.Machine.execStepReplayCommit d q seq s
  | .commitProceed d q => Sys2Proof.Machine.execCommitProceed d q s
  | .commitPhase2 d q => Sys2Proof.Machine.execCommitPhase2 d q s
  | .partnerTimeout => Sys2Proof.Machine.execPartnerTimeout s
  | .takeover => Sys2Proof.Machine.execTakeover s
  | .partnerFenceNotice part => Sys2Proof.Machine.execPartnerFenceNotice part s
  | .openCtx d q seq => Sys2Proof.Machine.execOpenCtx d q seq s
  | .closeCtx d q seq => Sys2Proof.Machine.execCloseCtx d q seq s
  | .pauseCtx d q seq => Sys2Proof.Machine.execPauseCtx d q seq s
  | .resumeCtx d q seq => Sys2Proof.Machine.execResumeCtx d q seq s
  | .gather d q seq => Sys2Proof.Machine.execGather d q seq s
  | .append d q seq => Sys2Proof.Machine.execAppend d q seq s
  | .advance d q seq => Sys2Proof.Machine.execAdvance d q seq s
  | .publish d q seq => Sys2Proof.Machine.execPublish d q seq s
  | .prefixRelease d q seq => Sys2Proof.Machine.execPrefixRelease d q seq s
  | .adapterInstall d q seq => Sys2Proof.Machine.execAdapterInstall d q seq s
  | .adapterRetire d q seq => Sys2Proof.Machine.execAdapterRetire d q seq s
  | .adapterFetch d q seq => Sys2Proof.Machine.execAdapterFetch d q seq s
  | .setKey d q seq => Sys2Proof.Machine.execSetKey d q seq s
  | .setData d q seq => Sys2Proof.Machine.execSetData d q seq s
  | .beginMb d q seq => Sys2Proof.Machine.execBeginMb d q seq s
  | .setLayer d q seq => Sys2Proof.Machine.execSetLayer d q seq s
  | .setCounter d q seq => Sys2Proof.Machine.execSetCounter d q seq s
  | .reduceScatter d q seq => Sys2Proof.Machine.execReduceScatter d q seq s
  | .allreduce d q seq => Sys2Proof.Machine.execAllreduce d q seq s
  | .allgather d q seq => Sys2Proof.Machine.execAllgather d q seq s
  | .probe d q seq => Sys2Proof.Machine.execProbe d q seq s
  | .bucketComplete d job => Sys2Proof.Machine.execBucketComplete d job s
  | .jobGo d v => Sys2Proof.Machine.execJobGo d v s
  | .snapshot d q seq => Sys2Proof.Machine.execSnapshot d q seq s
  | .holdEnd d q => Sys2Proof.Machine.execHoldEnd d q s
  | .restore d q seq => Sys2Proof.Machine.execRestore d q seq s
  | .drain d q seq => Sys2Proof.Machine.execDrain d q seq s
  | .compare d q seq => Sys2Proof.Machine.execCompare d q seq s
  | .ckptSlotWrite d k v => Sys2Proof.Machine.execCkptSlotWrite d k v s
  | .create d q seq => Sys2Proof.Machine.execCreate d q seq s
  | .rotate d q seq => Sys2Proof.Machine.execRotate d q seq s
  | .remove d q seq => Sys2Proof.Machine.execRemove d q seq s
  | .removeDrainExpiry tenant => Sys2Proof.Machine.execRemoveDrainExpiry tenant s
  | .importPages d q seq => Sys2Proof.Machine.execImportPages d q seq s
  | .exportPages d q seq => Sys2Proof.Machine.execExportPages d q seq s
  | .keyWorkTimeout d q seq => Sys2Proof.Machine.execKeyWorkTimeout d q seq s
  | .update v => Sys2Proof.Machine.execUpdate v s
  | .firmwareUpdateDone r => Sys2Proof.Machine.execFirmwareUpdateDone r s
  | .enroll v => Sys2Proof.Machine.execEnroll v s
  | .revoke v => Sys2Proof.Machine.execRevoke v s
  | .getVersion mb => Sys2Proof.Machine.execGetVersion mb s
  | .getCapabilities mb => Sys2Proof.Machine.execGetCapabilities mb s
  | .negotiateAlgorithms o => Sys2Proof.Machine.execNegotiateAlgorithms o s
  | .getDigests mb => Sys2Proof.Machine.execGetDigests mb s
  | .getCertificate r => Sys2Proof.Machine.execGetCertificate r s
  | .challenge mb r => Sys2Proof.Machine.execChallenge mb r s
  | .getMeasurements mb r => Sys2Proof.Machine.execGetMeasurements mb r s
  | .keyExchange mb x => Sys2Proof.Machine.execKeyExchange mb x s
  | .finish mb => Sys2Proof.Machine.execFinish mb s
  | .keyUpdate mb => Sys2Proof.Machine.execKeyUpdate mb s
  | .endSession mb => Sys2Proof.Machine.execEndSession mb s
  | .setTransportKey mb key => Sys2Proof.Machine.execSetTransportKey mb key s
  | .ideKmRequest m => Sys2Proof.Machine.execIdeKmRequest m s
  | .ideStreamLost st => Sys2Proof.Machine.execIdeStreamLost st s
  | .telemetryRefresh overload loadPct => Sys2Proof.Machine.execTelemetryRefresh overload loadPct s
  | .portTrainingDone p peer => Sys2Proof.Machine.execPortTrainingDone p peer s
  | .trainingRetry p => Sys2Proof.Machine.execTrainingRetry p s
  | .frameSend p => Sys2Proof.Machine.execFrameSend p s
  | .idleFrameRx p h => Sys2Proof.Machine.execIdleFrameRx p h s
  | .replayExhausted p => Sys2Proof.Machine.execReplayExhausted p s
  | .d2dReplayExhausted a b => Sys2Proof.Machine.execD2dReplayExhausted a b s
  | .jobFrameRx p h f => Sys2Proof.Machine.execJobFrameRx p h f s
  | .controlFrameRx p h m => Sys2Proof.Machine.execControlFrameRx p h m s
  | .msixDeliver d fn => Sys2Proof.Machine.execMsixDeliver d fn s
  | .troroikEventDeliver d => Sys2Proof.Machine.execTroroikEventDeliver d s
  | .msixUnmask fn c => Sys2Proof.Machine.execMsixUnmask fn c s
  | .hold v => Sys2Proof.Machine.execHold v s
  | .intPfEoi d v => Sys2Proof.Machine.execIntPfEoi d v s
  | .stackReset d => Sys2Proof.Machine.execStackReset d s
  | .clearCounts d => Sys2Proof.Machine.execClearCounts d s
  | .countClear d src => Sys2Proof.Machine.execCountClear d src s
  | .flagClear d src => Sys2Proof.Machine.execFlagClear d src s
  | .thymeRecordWrite d => Sys2Proof.Machine.execThymeRecordWrite d s
  | .clearDrops d => Sys2Proof.Machine.execClearDrops d s
  | .convCountersClear d => Sys2Proof.Machine.execConvCountersClear d s
  | .updCountersClear d => Sys2Proof.Machine.execUpdCountersClear d s
  | .vatCountersClear d => Sys2Proof.Machine.execVatCountersClear d s
  | .memCountersClear d => Sys2Proof.Machine.execMemCountersClear d s
  | .ctxTokensClear d => Sys2Proof.Machine.execCtxTokensClear d s
  | .lnkCountersClear d => Sys2Proof.Machine.execLnkCountersClear d s
  | .ckptMismatchClear d => Sys2Proof.Machine.execCkptMismatchClear d s
  | .keyBusyCountClear => Sys2Proof.Machine.execKeyBusyCountClear s
  | .registerWrite fn addr v => Sys2Proof.Machine.execRegisterWrite fn addr v s
  | .sysRefclkBLoss => Sys2Proof.Machine.execSysRefclkBLoss s
  | .imageSigningSlotOperationEnd => Sys2Proof.Machine.execImageSigningSlotOperationEnd s
  | .badCrcFrameReceived p => Sys2Proof.Machine.execBadCrcFrameReceived p s

end Sys2Proof.Machine
end

