-- ==== Sys2Proof/Machine/Shown.lean ====
section
/-! DEFINITION. What a read of BAR0 shows (R16 to R19): the value of every register, field by field. No command reads a
register, because a read changes nothing; this view is how the state's fields stand in the registers. -/

namespace Sys2Proof.Machine

/-! ### Derived fields -/

/-- A started entry of a die satisfies `p`. -/
def State.anyStarted (s : State) (d : Nat) (p : Nat → Desc → Bool) : Bool :=
  (s.queuesOf d).any (fun Q => (s.queue Q).entries.any (fun e => e.stat == .started && p Q e.desc))

/-- BUSY of a half-array (R121): a descriptor occupies it. -/
def State.arrayBusy (s : State) (d : Nat) (h : Half) : Bool :=
  s.anyStarted d (fun Q x => x.cls == 1 && s.inRegion Q x h)
/-- BUSY of a vector cluster (R164). -/
def State.vecBusy (s : State) (d c : Nat) : Bool := s.clusterBusy d (128 + c)
/-- BUSY of the update units (R164): the three units of a die act as one (R157) (DEDUCED, log 75). -/
def State.updBusy (s : State) (d : Nat) : Bool := s.anyStarted d (fun _ x => x.cls == 4)

/-- BYPASSED of a block (R40, R95): of a tile, the bypassed columns of its column band. -/
def State.bypassed (s : State) (d i : Nat) : Nat :=
  let x := s.die d
  let band := fun (w : BitVec 512) => ones (BitVec.ofNat 64 (fld w (64 * (i % 8) + 63) (64 * (i % 8))))
  if i < 64 then band x.colsWest
  else if i < 128 then band x.colsEast
  else if i = 128 then x.lanesOff0.toNat
  else if i = 129 then x.lanesOff1.toNat
  else if i = 130 then x.lanesOff2.toNat
  else if i = 131 then x.lanesOff3.toNat
  else if x.wWest = 0 then 0
  else 8 - (s.port (2 * d + (i - 132))).lanes.toNat

/-- FENCED of a block (R40): its region or its die is fenced. -/
def State.blockFenced (s : State) (d i : Nat) : Bool :=
  if i < 64 ∨ i = 128 ∨ i = 129 then s.fencedAt d .west
  else if i < 128 ∨ i = 130 ∨ i = 131 then s.fencedAt d .east
  else (s.die d).fenced

/-- Contexts of a class in a state, committed halves (R257). -/
def State.ctxCount (s : State) (d c : Nat) (st : BitVec 2) : Nat :=
  (s.ctxs.filter (fun e => e.1 / ctxPer == d && e.2.com.state == st && e.2.com.cls.toNat == c)).length

/-- Pages of a tenant at its older epoch, on the dies that `p` names (R189, R354). -/
def State.pagesLeft (s : State) (t : Nat) (p : Nat → Bool) : Nat :=
  let x := s.tenant t
  if x.olderValid then
    (s.tags.filter (fun e => p (e.1 / 2 ^ 28) && e.2.assigned && e.2.owner == t && e.2.epoch == x.older)).length
  else 0

/-- STATE of a turn and of a port, as numbers (R94, R279). -/
def TurnState.num : TurnState → Nat
  | .idle => 0
  | .drain => 1
  | .switch => 2
  | .press => 3
  | .await => 4
  | .flip => 5
  | .rollback => 6
def PortState.num : PortState → Nat
  | .absent => 0
  | .down => 1
  | .training => 2
  | .up => 3
  | .miswired => 4
def TenantState.num : TenantState → Nat
  | .absent => 0
  | .active => 1
  | .removing => 2

/-- The mirror-partner port is up (R212). -/
def State.mirrorUp (s : State) : Bool :=
  match s.portOfRole 7 with
  | some p => (s.port p).state == .up
  | none => false
/-- NOT_INDEPENDENT (R312). -/
def State.notIndependent (s : State) : Bool := s.mirrorUp && feedsDepend s.power.feedId s.pair.partnerFeed
/-- SOLO of QUE_PAIR_STATUS (R212): a paired queue commits alone. -/
def State.anySolo (s : State) : Bool := s.queues.any (fun e => e.2.enable && e.2.paired && e.2.solo)

/-- A flag as a bit. -/
def State.flagBit (s : State) (d src : Nat) : Nat := bnum (s.flagOf d src)

/-! ### Queue slots (R211) -/

def State.readQueueReg (s : State) (Q o : Nat) : Word :=
  let q := s.queue Q
  if o = 0x00 then q.ringBase
  else if o = 0x08 then
    packWord [(q.cgroup.toNat, 16), (bnum q.paired, 7), (bnum q.enable, 6), (q.log2, 0)]
  else if o = 0x10 then q.cplBase
  else if o = 0x20 then packWord [(q.accepted % 2 ^ 48, 0)]
  else if o = 0x28 then packWord [(q.done % 2 ^ 48, 0)]
  else if o = 0x30 then packWord [(q.committed % 2 ^ 48, 0)]
  else if o = 0x38 then
    packWord [(q.owner, 8), (bnum q.solo, 5), (s.flagBit (dieOfQ Q) (srcOverrun Q), 4), (s.queueState Q, 0)]
  else if o = 0x40 then q.haltWord
  else 0

/-! ### The die window -/

/-- A counter block (R40). -/
def State.readBlock (s : State) (d i o : Nat) : Word :=
  let b := s.block (dkey d 134 i)
  if o = 0x00 then
    packWord [(s.bypassed d i, 32), (b.eventSel.toNat, 16), (bnum b.gated, 7), (bnum (s.blockFenced d i), 6),
              (bnum b.freeze, 2), (bnum b.gate, 0)]
  else if o = 0x08 then b.hs
  else if o = 0x10 then b.busyNs
  else if o = 0x18 then b.waitInNs
  else if o = 0x20 then b.waitOutNs
  else if o = 0x28 then b.gatedNs
  else if o = 0x30 then b.event
  else 0

/-- ARR_STATUS of a half (R121). -/
def State.arrStatus (s : State) (d : Nat) (h : Half) : Word :=
  packWord [(bnum ((s.die d).stat h).isSome, 7), (bnum (s.bank (bkey d h 1)).held, 6),
    (bnum (s.bank (bkey d h 0)).held, 5), (bnum (s.fencedAt d h), 4), (s.flagBit d (srcArray h 0), 3),
    (s.flagBit d (srcArray h 1), 2), (s.flagBit d (srcArray h 2), 1), (bnum (s.arrayBusy d h), 0)]

def State.readEngineReg (s : State) (d o : Nat) : Word :=
  let x := s.die d
  let sl := s.stream (dkey d 2048 x.streamSel.toNat)
  let bits := fun (f : Nat → Bool) (n : Nat) => (List.range n).map (fun i => (bnum (f i), i))
  if o = 0x300000 then packWord [(x.wEast, 16), (x.wWest, 0)]
  else if o = 0x300008 then
    packWord [(bnum x.image.isSome, 4), (s.mode d, 2), (bnum (s.regionOn d .east), 1), (bnum (s.regionOn d .west), 0)]
  else if o = 0x300010 then s.arrStatus d .west
  else if o = 0x300018 then s.arrStatus d .east
  else if 0x300100 ≤ o ∧ o < 0x300140 then
    let j := (o - 0x300100) / 8
    BitVec.ofNat 64 (fld x.colsWest (64 * j + 63) (64 * j))
  else if 0x300140 ≤ o ∧ o < 0x300180 then
    let j := (o - 0x300140) / 8
    BitVec.ofNat 64 (fld x.colsEast (64 * j + 63) (64 * j))
  else if o = 0x320000 then
    packWord [(x.lanes3.toNat, 27), (x.lanes2.toNat, 18), (x.lanes1.toNat, 9), (x.lanes0.toNat, 0)]
  else if o = 0x320008 then
    packWord ([(s.flagBit d srcVecNan, 0)] ++ (List.range 4).map (fun c => (bnum (s.vecBusy d c), 4 + c)))
  else if o = 0x320010 then packWord (bits (fun i => (s.chain (dkey d 64 i)).loaded) 64)
  else if o = 0x320100 then packWord [(x.streamSel.toNat, 0)]
  else if o = 0x320108 then
    packWord [(sl.com.step.toNat, 32), (sl.com.microbatch.toNat, 16), (sl.com.layer.toNat, 0)]
  else if o = 0x320110 then
    packWord [(sl.com.purpose.toNat, 48), (sl.com.tenant, 41), (bnum sl.com.bound, 2), (bnum sl.com.keyed, 1),
              (bnum sl.pend.isSome, 0)]
  else if o = 0x340000 then packWord ((List.range 5).map (fun i => (s.flagBit d (srcConv i), i)))
  else if o = 0x340008 then x.satCount
  else if o = 0x340010 then x.ovfCount
  else if o = 0x340018 then x.nonfiniteCount
  else if o = 0x340020 then x.clampCount
  else if o = 0x340028 then x.intSatCount
  else if o = 0x360000 then packWord [(s.flagBit d srcUpdSkip, 3), (7 * bnum (s.updBusy d), 0)]
  else if o = 0x360008 then x.updSkip
  else if o = 0x360010 then x.updParams
  else 0

def State.readMemReg (s : State) (d o : Nat) : Word :=
  let x := s.die d
  let stack := fun (i : Nat) (k : Stack) => packWord [(k.lastPage.toNat, 37), (bnum k.lost, 7),
    (s.flagBit d (srcStack i 2), 2), (s.flagBit d (srcStack i 1), 1), (s.flagBit d (srcStack i 0), 0)]
  if o = 0x380000 then
    packWord [(x.violCode.toNat, 48), (x.violCurd.toNat, 38), (x.violQueue.toNat, 28),
              (s.flagBit d srcViolationMulti, 1), (s.flagBit d srcViolation, 0)]
  else if o = 0x380008 then x.violCount
  else if o = 0x380010 then packWord [(x.vatCeAddr.toNat, 32), (s.flagBit d srcVatUe, 1), (s.flagBit d srcVatCe, 0)]
  else if o = 0x380018 then x.vatCeCount
  else if 0x380100 ≤ o ∧ o < 0x380150 then
    let j := (o - 0x380100) / 8
    packWord ((List.range 64).map (fun i => (bnum (s.curdOwner d (64 * j + i)).isSome, i)))
  else if o = 0x3A0000 then stack 0 x.stack0
  else if o = 0x3A0008 then stack 1 x.stack1
  else if o = 0x3A0010 then stack 2 x.stack2
  else if o = 0x3A0020 then x.stack0.ceCount
  else if o = 0x3A0028 then x.stack1.ceCount
  else if o = 0x3A0030 then x.stack2.ceCount
  else if o = 0x3A0040 then x.stack0.ueCount
  else if o = 0x3A0048 then x.stack1.ueCount
  else if o = 0x3A0050 then x.stack2.ueCount
  else if o = 0x3A0060 then x.integFail
  else if o = 0x3A0068 then x.keyMissing
  else if o = 0x3A0070 then x.scrubNs
  else if o = 0x3A0078 then packWord [(x.sweepRate.toNat, 0)]
  else if o = 0x3A0080 then
    packWord [(s.pagesLeft x.sweepTenant.toNat (fun e => e == d), 32),
              (x.sweepFailed.toNat, 8), (x.sweepTenant.toNat, 1), (bnum x.sweepActive, 0)]
  else if 0x3A0100 ≤ o ∧ o < 0x3A0180 then
    let p := s.kvPool d ((o - 0x3A0100) / 16)
    -- a pool of which nothing has been written reads BAD as its reset value, 0 (DEDUCED, log 76)
    if o % 16 = 0 then
      packWord [(p.base.toNat, 34), (p.blocks.toNat, 4), (bnum (p != {} && p.isBad d), 1), (bnum p.valid, 0)]
    else packWord [(p.tpb.toNat, 51), (p.layers.toNat, 42), (p.tokenBytes.toNat, 26), (p.tenant.toNat, 19)]
  else 0

/-- A word of a log entry (R226). -/
def LogEntry.word (e : LogEntry) (i : Nat) : Word :=
  if i = 0 then e.time
  else if i = 1 then packWord [(e.seq.toNat, 32), (e.code.toNat, 16), (e.event.toNat, 0)]
  else if i = 2 then e.detail
  else packWord [(e.repeats.toNat, 48), (e.source.toNat, 34), (e.die.toNat, 32), (e.spanUs.toNat, 0)]

def State.readIntReg (s : State) (d o : Nat) : Word :=
  let x := s.die d
  if o = 0x500010 then
    packWord [(x.pfStack.length, 16), ((x.pfStack.head?.map (fun e => e.2.toNat)).getD 0, 12),
              ((x.pfStack.head?.map (fun e => e.1.toNat)).getD 0, 0)]
  else if o = 0x500018 then
    packWord [(bnum x.nest.notFound, 18), (bnum x.nest.empty, 17), (s.flagBit d srcNest, 16), (x.nest.expected.toNat, 8),
              (x.nest.given.toNat, 0)]
  else if 0x510000 ≤ o ∧ o < 0x530000 then
    let src := (o - 0x510000) / 8
    if s.srcServed d src then
      let y := s.src (srcKey d src)
      packWord [(bnum y.pend, 17), (bnum y.flag, 16), (y.count.toNat, 0)]
    else 0
  else if o = 0x600000 then packWord [(x.logNext.toNat, 32), (x.logQueue.length, 16)]
  else if o = 0x600008 then x.logDrops
  else if o = 0x600010 then packWord [(x.coalesceUs.toNat, 16)]
  else if 0x610000 ≤ o ∧ o < 0x630000 then
    let n := (o - 0x610000) / 8
    (s.logEntry (lkey d (n / 4))).word (n % 4)
  else 0

def State.readLinkReg (s : State) (d o : Nat) : Word :=
  let x := s.die d
  if 0x700000 ≤ o ∧ o < 0x700080 then
    let c := (o - 0x700000) / 16
    if o % 16 = 0 then packWord [(s.ctxCount d c 2, 16), (s.ctxCount d c 1, 0)] else SMap.get 0 x.tokens c
  else if 0x701000 ≤ o ∧ o < 0x703000 then
    let i := (o - 0x701000) / 8
    let p := (s.pfx (dkey d pfxPer i)).com
    packWord [(s.pfxRefs d i, 50), (p.state.toNat, 48), (p.tenant, 41), (p.len, 19), (p.pool.toNat, 16)]
  else if o = 0x704000 then x.learn.com.pos
  else if o = 0x704008 then
    packWord [(x.learnStep.toNat, 32), (bnum x.learn.pend.isSome, 1), (bnum x.learn.com.valid, 0)]
  else if o = 0x704010 then packWord [(x.learn.com.sps.toNat, 32), (x.learn.com.spm.toNat, 0)]
  else if 0x705000 ≤ o ∧ o < 0x705030 then
    let k := s.ckpt (slotKey d ((o - 0x705000) / 16))
    if o % 16 = 0 then packWord [(k.base.toNat, 34), (k.pages.toNat, 4), (k.state.toNat, 0)] else k.step
  else if o = 0x705030 then
    packWord [(x.holdUs.toNat, 32), (s.flagBit d srcMismatch, 3),
              (bnum ((x.restoring.map Restoring.verified).getD false), 2), (bnum x.restoring.isSome, 1), (bnum (!x.holds.isEmpty), 0)]
  else if o = 0x705038 then x.mismatchCount
  else if 0x800000 ≤ o ∧ o < 0x800080 then
    let p := 2 * d + (o - 0x800000) / 0x40
    let y := s.port p
    let r := o % 0x40
    if r = 0x00 then
      packWord [(s.role p, 28), (bnum (s.pass p), 27), (y.lanes.toNat, 20), (y.state.num, 8),
        (s.flagBit d (srcPortMiswired p), 2), (s.flagBit d (srcPortExhausted p), 1), (s.flagBit d (srcPortDown p), 0)]
    else if r = 0x08 then packWord [(y.replayLimit.toNat, 0)]
    else if r = 0x10 then y.crcCount
    else if r = 0x18 then y.replayCount
    else if r = 0x20 then y.staleCount
    else if r = 0x28 then y.lostCount
    else 0
  else if o = 0x800080 then x.tenantDrops
  else if 0x810000 ≤ o ∧ o < 0x820000 then
    let j := (o - 0x810000) / 16
    let h := s.job (dkey d 4096 j)
    let f := s.jobFlags (dkey d 4096 j)
    if o % 16 = 0 then
      packWord [(h.com.nextBucket.toNat, 40), (h.com.run.toNat, 32), (h.com.tenant, 25), (bnum f.lost, 22),
                (bnum h.com.histValid, 21), (bnum h.pend.isSome, 20)]
    else packWord [(h.com.hist.toNat, 32), (f.raises.toNat, 0)]
  else 0

def State.readDieReg (s : State) (d o : Nat) : Word :=
  let x := s.die d
  if o = 0x100000 then packWord [(x.coreMv.toNat, 32), (x.rateMhz.toNat, 0)]
  else if o = 0x100008 then packWord [(x.tjMin.toNat, 8), (x.tjMax.toNat, 0)]
  else if !s.power.ready then 0
  else if o < 0x200000 then 0
  else if o < 0x200000 + 134 * 0x40 then s.readBlock d ((o - 0x200000) / 0x40) (o % 0x40)
  else if o < 0x380000 then s.readEngineReg d o
  else if o < 0x400000 then s.readMemReg d o
  else if o < 0x440000 then s.readQueueReg (d * 1024 + (o - 0x400000) / 256) (o % 256)
  else if o < 0x700000 then s.readIntReg d o
  else s.readLinkReg d o

/-! ### The package registers -/

def State.readPwrReg (s : State) (o : Nat) : Word :=
  let p := s.power
  if o = 0x100 then s.time.now
  else if o = 0x108 then
    packWord [(s.offsetNs.toNat, 32), (bnum s.root, 2), (s.flagBit 0 srcSkew, 1), (bnum s.aligned, 0)]
  else if o = 0x200 then
    packWord [(p.bootCode.toNat, 48), (p.bootDie.toNat, 40), (p.elapsedNs / 1000 % 2 ^ 32, 8), (bnum p.bootFailed, 4),
              (p.bootStep.toNat, 1), (bnum p.ready, 0)]
  else if o = 0x208 then packWord ((List.range 9).map (fun i => (s.flagBit 0 (srcCause i), i)))
  else if o = 0x218 then packWord [(p.capW.toNat, 16), (p.vmaxMv.toNat, 0)]
  else if o = 0x220 then
    packWord [(p.powerW.toNat, 48), (s.flagBit 0 srcDroop, 6), (bnum p.linkDegraded, 5), (bnum p.refBActive, 4),
              (s.flagBit 0 srcAvsFault, 3), (s.flagBit 0 srcThermalHigh, 2), (s.flagBit 0 srcCapUnmet, 1),
              (bnum p.capActive, 0)]
  else if o = 0x228 then packWord [(p.feedId.toNat, 0)]
  else 0

/-- IMG_SLOT of a kind (R94). -/
def State.readSlot (s : State) (kind : Nat) : Word :=
  let x := s.img.slot kind
  let g := (x.image.map (fun i => i.generation.toNat)).getD 0
  let k := (x.image.map (fun i => i.keyIndex.toNat)).getD 0
  packWord [(x.code.toNat, 48), (g, 16), (k, 8), (s.flagBit 0 (srcDiscarded kind), 1), (bnum x.image.isSome, 0)]

def State.readImgReg (s : State) (o : Nat) : Word :=
  let x := s.img
  if o = 0x300 then x.loadAddr
  else if o = 0x308 then packWord [(x.loadLen.toNat, 32), (x.discardKind.toNat, 8)]
  else if o = 0x310 then
    packWord [(x.loadCode.toNat, 48), (x.failOffset.toNat, 16), (s.flagBit 0 srcImgDone, 1), (bnum (x.work != .none), 0)]
  else if o = 0x318 then s.readSlot 1
  else if o = 0x320 then s.readSlot 2
  else if o = 0x328 then packWord [(s.store.genLearn.val.toNat, 32), (s.store.genServe.val.toNat, 0)]
  else if o = 0x330 then packWord [(x.deadlineUs.toNat, 24), (x.drainLimitUs.toNat, 8), (x.target.toNat, 1)]
  else if o = 0x338 then packWord [(x.pressCount.toNat, 42), (x.pressBase.toNat, 0)]
  else if o = 0x340 then packWord [(x.expected.toNat, 42), (x.mapBase.toNat, 0)]
  else if o = 0x348 then packWord [(x.present.toNat, 32), (x.absent.toNat, 0)]
  else if o = 0x350 then packWord [(x.weightsNext.toNat, 0)]
  else if o = 0x358 then packWord [(x.activeWeights.toNat, 0)]
  else if o = 0x360 then
    packWord [(x.turnCode.toNat, 48), (x.turnState.num, 44), (x.structKind.toNat, 38), (x.activeKind.toNat, 36),
              (x.turnCount.toNat, 12), (s.flagBit 0 srcTurnAbsent, 2), (s.flagBit 0 srcTurnFailed, 1),
              (s.flagBit 0 srcTurnDone, 0)]
  else if o = 0x368 then x.tStart
  else if o = 0x370 then x.tSwitch
  else if o = 0x378 then x.tPress
  else if o = 0x380 then x.tFlip
  else 0

/-- The security registers (R336, R337, R354). DIGEST of a key slot is its first 56 bits (DEDUCED, log 77). -/
def State.readSecReg (s : State) (o : Nat) : Word :=
  let c := s.sec
  if 0x800 ≤ o ∧ o < 0xA08 then
    let t := (o - 0x800) / 8
    let x := s.tenant t
    packWord [(s.pagesLeft t (fun _ => true), 32), (x.state.num, 10), (x.newest.toNat, 8), (x.older.toNat, 6),
              (bnum x.olderValid, 5), (bnum x.sweep, 4), (bnum x.transport.isSome, 3), (bnum x.sweepFailed, 2)]
  else if 0xA40 ≤ o ∧ o < 0xA80 then
    let k := s.imgKey ((o - 0xA40) / 8)
    let dg := if k.state = 0 then 0 else ofLe ((digest k.key).take 7)
    packWord [(dg, 8), (k.state.toNat, 0)]
  else if o = 0xA80 then packWord [(fld c.keyAddr 63 6, 6), (c.keySlot.toNat, 2)]
  else if o = 0xA88 then packWord [(c.keyCode.toNat, 48), (s.flagBit 0 srcKeyDone, 1), (bnum (c.keyOp != .none), 0)]
  else if o = 0xA90 then packWord [(fld c.fwAddr 63 6, 6)]
  else if o = 0xA98 then packWord [(c.fwLen.toNat, 32)]
  else if o = 0xAA0 then
    packWord [(c.fwCode.toNat, 48), (s.svnRunning.toNat, 32), (s.store.fwFloor.val.toNat, 16), (bnum (s.die s.primary).copyB, 2),
              (s.flagBit 0 srcFwDone, 1), (bnum c.fwBusy, 0)]
  else if o = 0xAA8 then packWord [(c.telemUs.toNat, 32), (c.loadPct.toNat, 8), (s.primary, 4), (c.alive.toNat, 0)]
  else if o = 0xAB0 then c.keyBusyCount
  else 0

/-- CUR and OLD of an adapter slot, committed halves (R257). -/
def State.readAdapter (s : State) (i : Nat) (second : Bool) : Word :=
  let x := (s.adapter i).com
  let num := fun (g : Option Gen) => (g.map Gen.num).getD 0
  let refs := fun (g : Option Gen) => (g.map (fun y => s.genRefs i y.num)).getD 0
  if second then
    packWord [(x.tenant.getD 0, 4), (bnum x.retiring, 2), (bnum x.old.isSome, 1), (bnum x.cur.isSome, 0)]
  else packWord [(num x.cur, 48), (refs x.cur, 32), (num x.old, 16), (refs x.old, 0)]

def State.readPkgReg (s : State) (o : Nat) : Word :=
  if o = 0x118 then s.time.sample
  else if 0x400 ≤ o ∧ o < 0x500 then
    let b := s.pbank ((o - 0x400) / 16)
    if o % 16 = 0 then packWord [(b.base0.toNat, 34), (b.base1.toNat, 4), (bnum b.current, 0)]
    else packWord [(b.pages.toNat, 34), (b.tenant.toNat, 27), (bnum b.valid, 0)]
  else if o = 0x600 then
    let code : Code := if s.anySolo || s.pair.halted then Status.pairDegraded
      else if s.notIndependent then Status.pairNotIndependent else 0
    packWord [(code.toNat, 48), (s.pair.partnerFeed.toNat, 8), (s.flagBit 0 srcDegraded, 4), (bnum s.anySolo, 3),
              (bnum s.pair.halted, 2), (bnum s.notIndependent, 1), (bnum s.mirrorUp, 0)]
  else if o = 0x608 then packWord [(s.pair.timeoutMs.toNat, 16)]
  else if o = 0x700 then
    packWord [(s.groupBits.toNat, 4), (bnum (dieIds.any (fun d => (s.die d).switchHold)), 1), (bnum s.gHold, 0)]
  else if 0x800 ≤ o ∧ o < 0xB00 then s.readSecReg o
  else if 0x1000 ≤ o ∧ o < 0x5000 then s.readAdapter ((o - 0x1000) / 16) (o % 16 != 0)
  else if o = 0x8000 then packWord [(s.shardTable.toNat, 0)]
  else if o = 0x8008 then packWord [(s.pressCode.toNat, 48), (s.pressIndex.toNat, 26)]
  else if o = 0x8010 then packWord [(bnum s.resendRefused, 1)]
  else if 0x9000 ≤ o ∧ o < 0x9800 then packWord [((s.distEntry ((o - 0x9000) / 8)).toNat, 0)]
  else 0

/-! ### BAR0 -/

/-- What a read of BAR0 by a function shows: zero where no register stands, and before READY everywhere but in the PWR_
registers and the two time registers (R16, R61). A VF sees the slots of the queues bound to it (R192). -/
def State.readReg (s : State) (fn : Fn) (a : Nat) : Word :=
  if a % 8 ≠ 0 then 0
  else if fn ≠ 0 then
    if s.power.ready ∧ a < 2 ^ 20 ∧ s.mayWrite (a / 256) fn then s.readQueueReg (a / 256) (a % 256) else 0
  else if a < 0x4000000 then s.readDieReg (a / 0x1000000) (a % 0x1000000)
  else
    let o := a - 0x4000000
    if o = 0x100 ∨ o = 0x108 ∨ (0x200 ≤ o ∧ o < 0x300) then s.readPwrReg o
    else if !s.power.ready then 0
    else if 0x300 ≤ o ∧ o < 0x400 then s.readImgReg o
    else s.readPkgReg o

end Sys2Proof.Machine
end

