-- ==== Sys2Proof/Safety.lean ====
section
/-! DEFINITION. The terms in which statements about the block are made: a started entry, the end of its engine, what a
reset leaves, memories in canonical form, who holds what of a record. -/

namespace Sys2Proof.Machine

/-! ### Memories -/

/-- The three memories of the state are in canonical form. -/
def State.memoryOk (s : State) : Bool := Memory.wf s.hbm && Memory.wf s.vat && Memory.wf s.host

/-! ### The sealed stores (R338) -/

/-- Of every record, what the four stores say, the highest version that authenticates, is what the device has loaded. -/
def State.storesSound (s : State) : Prop :=
  newest ((dieIds.map s.storeOf).map Store.genServe) = some s.store.genServe ∧
  newest ((dieIds.map s.storeOf).map Store.genLearn) = some s.store.genLearn ∧
  newest ((dieIds.map s.storeOf).map Store.fwFloor) = some s.store.fwFloor ∧
  ∀ i ∈ keySlots, newest ((dieIds.map s.storeOf).map (fun x => x.imgKey i)) = some (s.store.imgKey i)

/-! ### A descriptor and its engine (R197, R198) -/

/-- Entry `seq` of queue `q` of die `d` is started with descriptor `x`, it is its turn in the engines it needs (R112, R197), and
HBM access has not stopped (R52, R58). -/
def Started (s : State) (d : DieId) (q : QId) (seq : BitVec 48) (x : Desc) : Prop :=
  s.power.hbmOff = false ∧ ∃ e, (s.queue (qnum d q)).entry seq.toNat = some e ∧ e.stat = .started ∧ e.desc = x ∧
    s.itsTurn (qnum d q) e = true

/-- The engine of an entry ends it with a status; gates that waited for it act (R28). -/
def State.engineEnds (s : State) (d : DieId) (q : QId) (seq : BitVec 48) (c : Code) : State :=
  (s.endEntry (qnum d q) seq.toNat c).settleGates d.val

/-- A group consists of one queue, which does not work jointly with a partner's. -/
def Alone (s : State) (Q : Nat) : Prop := members s (groupOf s Q) = [Q] ∧ s.joint Q = false

/-! ### Queues -/

/-- A queue whose work on the device is discarded: what it has committed stays, DONE stands at COMMITTED, its
configuration and OWNER are kept (R62, R201). -/
def Queue.idle (q : Queue) : Prop := q.entries = [] ∧ q.halted = false ∧ q.done = q.committed

/-- Two states of a queue agree on its configuration, OWNER and the committed cursor (R62). -/
def Queue.sameSetup (p q : Queue) : Prop :=
  p.ringBase = q.ringBase ∧ p.cplBase = q.cplBase ∧ p.log2 = q.log2 ∧ p.cgroup = q.cgroup ∧ p.paired = q.paired ∧
  p.enable = q.enable ∧ p.owner = q.owner ∧ p.accepted = q.accepted ∧ p.committed = q.committed

/-! ### Resets (R62, R64) -/

/-- What every power-on reset leaves: the sealed stores, the flashes, the host's memory and the fused identity
stand; everything else is at its reset value but the pins, the thermal trip and the record of the reset. `supply`: SUPPLY_MON
shows. -/
def AfterPowerOn (s : State) (supply aonKept : Bool) (t : State) : Prop :=
  t.store = s.store ∧ t.stores = s.stores ∧ t.flash = s.flash ∧ t.sec = {} ∧ t.host = s.host ∧
  t.hbm = [] ∧ t.tags = [] ∧ t.vat = [] ∧ t.queues = [] ∧ t.groups = [] ∧ t.img = {} ∧ t.time = {} ∧ t.log = [] ∧
  t.ports = [] ∧ t.ctxs = [] ∧ t.streams = [] ∧ t.jobs = [] ∧ t.ckpts = [] ∧ t.acc = [] ∧ t.pair = {} ∧
  (∀ d, d ≠ 0 → t.die d = {}) ∧
  t.power.tripLatch = (s.power.tripLatch && aonKept) ∧ t.power.ready = false ∧
  t.flagOf 0 (srcCause 0) = true ∧ t.flagOf 0 (srcCause 5) = (s.power.tripLatch && aonKept) ∧
  t.flagOf 0 (srcCause 6) = supply ∧
  (∀ i, i ∈ [1, 2, 3, 4, 7, 8] → t.flagOf 0 (srcCause i) = false)

/-- What a reset that reruns start-up step 6 on the whole package and keeps HBM leaves (R62, R65): HBM contents, keys,
resident images, time base and log stand; queue state on the device, the Vat and the accumulators are cleared; a turn is
over. `cause` is its bit of PWR_RESET_CAUSE. -/
def AfterCoreReset (s : State) (cause : Nat) (t : State) : Prop :=
  t.hbm = s.hbm ∧ t.tags = s.tags ∧ t.groups = s.groups ∧ t.pbanks = s.pbanks ∧ t.store = s.store ∧ t.stores = s.stores ∧ t.flash = s.flash ∧
  t.host = s.host ∧
  t.time = s.time ∧ t.log = s.log ∧ t.sec.tenants = s.sec.tenants ∧ t.img.serve = s.img.serve ∧
  t.img.learn = s.img.learn ∧ t.img.activeWeights = s.img.activeWeights ∧ t.img.activeKind = s.img.activeKind ∧
  t.img.turnState = .idle ∧ t.power.ready = false ∧ t.flagOf 0 (srcCause cause) = true ∧
  (∀ (d : DieId) (a : Nat), a < 2 ^ 26 → t.vatByte (vkey d.val a) = 0) ∧
  (∀ (d : DieId) (h : Half) (b r c : Nat), b < 2 → r < 1024 → c < 512 → t.accEntry (akey (bkey d.val h b) r c) = 0) ∧
  (∀ Q, (t.queue Q).idle ∧ (t.queue Q).sameSetup (s.queue Q))

/-- No die of the package is fenced, and no records are applied to any. -/
def Unfenced (t : State) : Prop :=
  ∀ d : DieId, (t.die d.val).fenced = false ∧ (t.die d.val).fencedWest = false ∧ (t.die d.val).fencedEast = false ∧
    (t.die d.val).image = none

/-! ### Operands -/

/-- A page that a tenant can read and write in whole or in part: its code finds no error, its MAC fits (R179, R182, R183, R185);
and that seals nothing (R343). -/
def PageGood (s : State) (t p : Nat) : Prop :=
  (s.tag p).assigned = true ∧ (s.tag p).owner = t ∧ (s.tenant t).hasKey (s.tag p).epoch = true ∧
  (s.tenant t).hasKey (s.tenant t).newest = true ∧ s.macFits p = true ∧ (s.tag p).poison = false ∧
  s.badWords p .correctable = [] ∧ s.badWords p .uncorrectable = [] ∧ s.sealedPage p = false

/-- Every page that a byte range of HBM meets is good for a tenant. -/
def RangeGood (s : State) (t : Nat) (a : Int) (n : Nat) : Prop :=
  ∀ p : Nat, a < ((p : Int) + 1) * 4096 → (p : Int) * 4096 < a + n → PageGood s t p

/-- No read of some spans of the Vat of a die meets a word with an error (R167). -/
def VatSound (s : State) (d : Nat) (xs : List Span) : Prop :=
  s.vatErrors d (xs.filter (fun y => !y.write)) .correctable = [] ∧
  s.vatErrors d (xs.filter (fun y => !y.write)) .uncorrectable = []

/-- An array descriptor that passes every check of R119 and whose banks are the array's (R110). -/
def ArrayReady (s : State) (d : DieId) (q : QId) (x : ArrayDesc) : Prop :=
  s.arrayBad d.val x = false ∧ s.arrayIllegal d.val (qnum d q) x = false ∧
  vatCheck (s.groupOwns d.val (s.bind (qnum d q)).group) noCurds x.spans = none ∧ s.arrayFenced d.val x = false ∧
  (∀ b ∈ x.banks d.val, (s.bank b.1).held = false) ∧ VatSound s d.val x.spans

/-- A vector descriptor of KIND 0 or 1, `y` with the fields `x`, that passes every check of R156, its banks, for a read-out, in its hands and of its
tenant (R150). -/
def VectorReady (s : State) (d : DieId) (q : QId) (y : Desc) (x : VecDesc) : Prop :=
  s.vecBad d.val x (s.chainFor (qnum d q) y) = false ∧
  s.vecIllegal d.val (qnum d q) x (s.chainFor (qnum d q) y) (s.streamFor (qnum d q) y) = false ∧
  vatCheck (s.groupOwns d.val (s.bind (qnum d q)).group) noCurds x.spans = none ∧
  (∀ h ∈ x.halves, s.fencedAt d.val h = false) ∧ s.spanFenced d.val x.spans = false ∧
  (x.kind = 1 → ∀ k ∈ x.banks d.val, (s.bank k).held = true ∧ (s.bank k).ofTenant (s.ownerOf (qnum d q)) = true) ∧
  VatSound s d.val x.spans

/-- Byte `a` of the space of a memory operand (R177): HBM, the Vat of the die, host memory of the tenant's function. -/
def State.spaceByte (s : State) (d t space a : Nat) : Byte :=
  match space with
  | 0 => s.hbmByte a
  | 1 => s.vatByte (vkey d a)
  | _ => s.hostByte (hkey t a)

/-- Parameter `j` of an update as it lies in its source bank (R158). -/
def State.paramAt (s : State) (x : UpdDesc) (j : Nat) : Param :=
  { p := BitVec.ofNat 32 (ofLe (s.hbmBytes (x.p + 4 * j) 4)), m := BitVec.ofNat 32 (ofLe (s.hbmBytes (x.m + 4 * j) 4))
    v := if x.opt = 1 then BitVec.ofNat 32 (ofLe (s.hbmBytes (x.v + 4 * j) 4)) else 0
    w := if x.whey then ofLe (s.hbmBytes (x.w + 2 * j) 2) else 0 }

/-! ### Serving-step descriptors (chapter 10) -/

/-- The list or record of a serving-step descriptor, `n` bytes, can be read, and the descriptor's fields are sound (R253 to
R255). -/
def ListReady (s : State) (d : DieId) (q : QId) (x : SrvDesc) (n : Nat) : Prop :=
  (n ≠ 0 → hbmIn d.val x.addr n = true) ∧ RangeGood s (s.ownerOf (qnum d q)) (x.addr : Nat) n ∧ x.bad d.val = false

/-- The batch list of a descriptor that works for `w` passes its checks on the records (R255). -/
def BatchReady (s : State) (d : DieId) (q : QId) (w : Who) (x : SrvDesc) (es : List BatchEntry) : Prop :=
  es = batchList x.op x.count (s.hbmBytes x.addr (16 * x.count)) ∧ ListReady s d q x (16 * x.count) ∧
  (∀ e ∈ es, s.entryBad w x e = false) ∧ s.img.structKind = 1 ∧ s.batchRefused w x es = false

/-- The Vat rows of a batch entry are its group's, in no fenced region and without errors. -/
def RowsOpen (s : State) (d : DieId) (q : QId) (sp : Span) : Prop :=
  vatCheck (s.groupOwns d.val (s.bind (qnum d q)).group) noCurds [sp] = none ∧ s.spanFenced d.val [sp] = false ∧
  VatSound s d.val [sp]

/-- The address of the KV row of a position of an entry, whose chain table names the blocks `bs` (R240, R241). -/
def rowAt (x : SrvDesc) (p : Pool) (e : BatchEntry) (bs : List Nat) (pos : Nat) : Nat :=
  p.rowAddr (bs.getD (pos / max 1 p.tpb.toNat - e.pos / max 1 p.tpb.toNat) 0) x.layer pos

/-- The chain table of a context names blocks of its pool, each once, for every position of an entry, and the pages of the
table and of the rows are good (R240, R241). -/
def ChainGood (s : State) (d : DieId) (q : QId) (x : SrvDesc) (c : Ctx) (p : Pool) (e : BatchEntry) (bs : List Nat) : Prop :=
  bs = (chainIndexes p e).map (fun j => ofLe (s.hbmBytes (c.chainAddr + 4 * j) 4)) ∧ bs.Nodup ∧
  (∀ b ∈ bs, b ≠ 0xFFFFFFFF ∧ b < p.blocks.toNat) ∧
  (∀ j ∈ chainIndexes p e, RangeGood s (s.ownerOf (qnum d q)) (c.chainAddr + 4 * j : Nat) 4) ∧
  ∀ i, i < e.ntok → RangeGood s (s.ownerOf (qnum d q)) (rowAt x p e bs (e.pos + i) : Nat) p.tokenBytes.toNat

/-! ### The Thyme log -/

/-- A record of an event is posted to the log of a die: at the end of the records that wait, or, where 256 wait, dropped
and counted (R226, R228). -/
def Posted (s t : State) (d event : Nat) (code : Code) (detail : Nat) : Prop :=
  if (s.die d).logQueue.length < 256 then
    ∃ r : LogRec, (t.die d).logQueue = (s.die d).logQueue ++ [r] ∧ r.time = s.time.now ∧
      r.event = BitVec.ofNat 16 event ∧ r.code = code ∧ r.detail = BitVec.ofNat 64 detail
  else (t.die d).logQueue = (s.die d).logQueue ∧ (t.die d).logDrops = (s.die d).logDrops + 1

/-! ### Ports -/

/-- What a port stands as while it can be neither trained nor up: absent without lanes, otherwise down (R279). -/
def Port.offState (x : Port) : PortState := if x.lanes = 0 then .absent else .down

/-- A state with the queue of commands and the sealed stores of another: no other command's own effect writes them (R338). -/
def State.keeping (t s : State) : State := { t with pending := s.pending, store := s.store, stores := s.stores }

/-! ### Received frames -/

/-- A port takes the frame with this link header: it is up and the frame is the next in order and carries no NAK (R286). -/
def State.accepts (s : State) (p : PortId) (h : LinkHdr) : Prop :=
  (s.port p.val).state = .up ∧ h.lseq = (s.port p.val).rxSeq ∧ h.nak = false

/-- The frames that flow control holds are shard and absent frames, as in a drain (R291). -/
def State.holdsShards (s : State) : Prop := ∀ p, p < 8 → ∀ f ∈ (s.port p).held, f.typ = 1 ∨ f.typ = 2

/-- A die takes part in a turn: it is not fenced and in no reset of its own (R88, R93). -/
def State.takesPart (s : State) (d : DieId) : Prop := (s.die d.val).fenced = false ∧ (s.die d.val).bootStep = 0

/-- The byte of HBM that holds the map entry of a shard (R90). -/
def State.mapAt (s : State) (i : Nat) : Nat := s.img.mapBase.toNat + i / 4

/-! ### Tenants and keys (chapter 14) -/

/-- A page that IMPORT and EXPORT of a tenant may move: the tenant's, of the descriptor's CLASS (R348). -/
def MovesPage (s : State) (t : Nat) (k : KeyDesc) (i : Nat) : Prop :=
  (s.tag (pageOf k.hbm + i)).assigned = true ∧ (s.tag (pageOf k.hbm + i)).owner = t ∧
  (s.tag (pageOf k.hbm + i)).cls.toNat = k.cls

/-- Only what Troroik holds of tenants has changed in the security state. -/
def Sec.sameButTenants (x y : Sec) : Prop := y = { x with tenants := y.tenants }

/-- The first `n` records of an IMPORT verify (R349). -/
def State.recordsGood (s : State) (t : Nat) (key : BitVec 256) (k : KeyDesc) (n : Nat) : Bool :=
  (List.range n).all (fun i => (k.openRecord key i (s.hostBytes t (k.host + 4160 * i) 4160)).isSome)

/-- A mailbox has become `x`, and nothing else changed but the draws of free values (R339). -/
def Mailboxed (s t : State) (mb : Nat) (x : Spdm) : Prop :=
  t = { s with sec := t.sec, free := t.free } ∧ t.sec = { s.sec with spdm := t.sec.spdm } ∧
  (∀ k, k ≠ mb → t.mailbox k = s.mailbox k) ∧ t.mailbox mb = x

/-! ### Interrupts (chapter 09) -/

/-- A source stands before all others of a list in the order of R219. -/
def BestOf (gb : BitVec 3) (xs : List (Nat × Route)) (b : Nat × Route) : Prop :=
  b ∈ xs ∧ ∀ p ∈ xs, ranksBefore gb p b = false

/-- A source keeps every field but PENDING (R215). -/
def Source.sameButPend (x y : Source) : Prop := y = { x with pend := y.pend }

/-- A nesting fault of a die is recorded (R222): its source is raised, and the first record since the flag was clear stays. -/
def NestFaulted (s t : State) (d : Nat) (n : Nest) : Prop :=
  t.flagOf d srcNest = true ∧ (t.src (srcKey d srcNest)).count = satAdd (s.src (srcKey d srcNest)).count 1 ∧
  (t.die d).nest = (if s.flagOf d srcNest then (s.die d).nest else n) ∧
  Posted s t d 0x000E Status.ok (n.expected.toNat * 256 + n.given.toNat)

/-! ### Registers (chapter 01) -/

/-- The registers that BAR0 serves before READY (R61): PWR_ registers and the two time registers, and of a die its reset and
its rate and temperature registers. -/
def servedEarly (a : Nat) : Bool :=
  if a < 0x4000000 then
    a % 0x1000000 == 0x100000 || a % 0x1000000 == 0x100008 || a % 0x1000000 == 0x100010
  else
    a - 0x4000000 == 0x100 || a - 0x4000000 == 0x108 || (decide (0x200 ≤ a - 0x4000000) && decide (a - 0x4000000 < 0x300))

/-- A write of BAR0 by the physical function leaves a state in which the register reads as `r`, having changed only what
`frame` allows. -/
def WritesTo (s : State) (a : BitVec 27) (v r : Word) (frame : State → State) : Prop :=
  ∃ t, exec (.registerWrite 0 a v) s = .next t ∧ t = frame t ∧ t.readReg 0 a.toNat = r

end Sys2Proof.Machine
end

