-- ==== Sys2Proof/Certificates/Slice0/Obligations.lean ====
section
/-! DEFINITION. The statements made about the block. Each docstring names the rules of spec/ it formalises; a statement
that rests on a choice of the model names its log entry. -/

section

open Sys2Proof Sys2Proof.Machine

/-! ### The machine -/

/-- A step takes the command at the front of the queue and runs it with the queue's rest (log 8). -/
def Obligations.StepRunsFrontCommand : Prop :=
  ∀ (c : Instr) (cs : List Instr) (s : State), step { s with pending := c :: cs } = exec c { s with pending := cs }

/-- Every command answers a next state, in every state and with every operand, and leaves the queue of commands as it was: the
spec gives the block no fault that stops it. Commands are taken first in, first out: after k steps the first k have run, and no
step stops. -/
def Obligations.CommandsRunToTheEnd : Prop :=
  (∀ (c : Instr) (s : State), ∃ t, exec c s = .next t ∧ t.pending = s.pending) ∧
  (∀ (k : Nat) (s : State), k ≤ s.pending.length → ∃ t, core.run k s = .next t ∧ t.pending = s.pending.drop k)

/-- An idle step lets one nanosecond pass (the model's choice, log 6): the time base counts while it runs on a reference
clock (R37, R52), by 1, or while an offset is corrected by 0 or 2 at times, never backwards (R37; the model's choice, log 113);
GATED_NS of a gated block that is not frozen counts with it (R40, R41); ELAPSED_US counts in start-up (R68); one word of the Vat
and one codeword of HBM may be struck (the model's choice, log 66); nothing else changes. -/
def Obligations.IdleStepIsOneNanosecond : Prop :=
  ∀ s : State, s.pending = [] → ∃ t, step s = .next t ∧
    t = { s with time := t.time, blocks := t.blocks, power := t.power, vatCond := t.vatCond, hbmCond := t.hbmCond
                 free := s.free + 1 } ∧
    t.power = (if s.power.booting then { s.power with elapsedNs := s.power.elapsedNs + 1 } else s.power) ∧
    (∀ k, t.vatCondAt k = match Config.struckVat s.free with
      | some x => if x.1 = k then (s.vatCondAt k).hit x.2 else s.vatCondAt k
      | none => s.vatCondAt k) ∧
    (∀ k, t.hbmCondAt k = match Config.struckHbm s.free with
      | some x => if x.1 = k then (s.hbmCondAt k).hit x.2 else s.hbmCondAt k
      | none => s.hbmCondAt k) ∧
    (s.time.running = true ∧ (s.power.refA = true ∨ s.power.refB = true) → ∃ n : Nat, n ≤ 2 ∧
      t.time.now = s.time.now + BitVec.ofNat 64 n ∧ t.time.slew = s.time.slew + (n : Int) - 1 ∧
      t.time.slew.natAbs ≤ s.time.slew.natAbs ∧ (s.time.slew = 0 ∨ s.time.sinceSlew + 1 < 10000 → n = 1) ∧
      t.time = { s.time with now := t.time.now, slew := t.time.slew, sinceSlew := t.time.sinceSlew } ∧
      ∀ k, t.block k = if (s.block k).gated && !(s.block k).freeze
        then { s.block k with gatedNs := (s.block k).gatedNs + BitVec.ofNat 64 n } else s.block k) ∧
    (¬ (s.time.running = true ∧ (s.power.refA = true ∨ s.power.refB = true)) → t.time = s.time ∧ t.blocks = s.blocks)

/-! ### The sealed store (R84, R336 to R338) -/

/-- R84: a write of IMG_GEN_FLOOR raises each floor that it is higher than and leaves the others, in the stores of all dies that
are not fenced (R338), and nothing else changes; with every die fenced there is none to write. From a state whose stores agree,
no command, power-on reset, the removal of every rail and the reading of the stores at start-up included, ever lowers a floor,
over any number of steps. The firmware floor is not lowered either (R336). -/
def Obligations.FloorsOnlyRise : Prop :=
  (∀ (v : Word) (s : State), s.power.ready = true → s.unfenced ≠ [] →
    ∃ t, exec (.imgGenFloorWrite v) s = .next t ∧ t = { s with store := t.store, stores := t.stores } ∧
      t.store = { s.store with genServe := t.store.genServe, genLearn := t.store.genLearn } ∧
      t.store.genServe.val.toNat = max s.store.genServe.val.toNat (v.toNat % 2 ^ 32) ∧
      t.store.genLearn.val.toNat = max s.store.genLearn.val.toNat (v.toNat / 2 ^ 32) ∧
      (∀ d : DieId, (s.die d.val).fenced = true → t.storeOf d.val = s.storeOf d.val) ∧
      (∀ d : DieId, (s.die d.val).fenced = false →
        (s.store.genServe.val.toNat < v.toNat % 2 ^ 32 → (t.storeOf d.val).genServe = t.store.genServe) ∧
        (s.store.genLearn.val.toNat < v.toNat / 2 ^ 32 → (t.storeOf d.val).genLearn = t.store.genLearn))) ∧
  (∀ (v : Word) (s : State), s.unfenced = [] → exec (.imgGenFloorWrite v) s = .next s) ∧
  (∀ (n : Nat) (s t : State), s.storesSound → core.run n s = .next t →
    s.store.genServe.val ≤ t.store.genServe.val ∧ s.store.genLearn.val ≤ t.store.genLearn.val ∧
      s.store.fwFloor.val ≤ t.store.fwFloor.val)

/-- What the four stores say of every record is what the device has loaded: every step keeps it, whatever a die that was fenced
has missed (R338). From such a state a revoked image-signing slot stays as it is, over any number of steps of any commands
(R337, R338), and every step keeps the array of the slots in canonical form. -/
def Obligations.RevokedSlotsStayRevoked : Prop :=
  (∀ s t : State, s.storesSound → step s = .next t → t.storesSound) ∧
  (∀ (n : Nat) (i : BitVec 3) (s t : State), s.storesSound → core.run n s = .next t → (s.imgKey i.toNat).state = 2 →
    t.imgKey i.toNat = s.imgKey i.toNat) ∧
  (∀ s t : State, SMap.wf { val := {} } s.store.imgKeys = true → step s = .next t →
    SMap.wf { val := {} } t.store.imgKeys = true)

/-- The machine after reset (R68, R84, R94, R121, R257, R336, R337): floors at 0, the Harvayn key in slot 0 and every other slot
empty; the registers that BAR0 serves before READY, and what the others hold, shown once the device is READY. No queue is enabled,
no curd owned, no flag set but POWER_ON. -/
def Obligations.ResetState : Prop :=
  State.reset.store.genServe.val = 0 ∧ State.reset.store.genLearn.val = 0 ∧ State.reset.store.fwFloor.val = 0 ∧
  State.reset.storesSound ∧ (∀ k, State.reset.flashOf k = .factory) ∧
  State.reset.imgKey 0 = { state := 1, key := Config.factoryImageKey } ∧
  (∀ i, i ≠ 0 → (State.reset.imgKey i).state = 0) ∧ SMap.wf { val := {} } State.reset.store.imgKeys = true ∧
  State.reset.pending = [] ∧ State.reset.memoryOk = true ∧
  (∀ k, (State.reset.src k).flag = true ↔ k = srcKey 0 (srcCause 0)) ∧
  (∀ Q, (State.reset.queue Q).enable = false ∧ State.reset.bound Q = false) ∧
  (∀ d c, State.reset.curdOwner d c = none) ∧
  (∀ e ∈ [(0x4000100, 0), (0x4000108, 0), (0x4000200, 0), (0x4000208, 1), (0x4000218, 0x70802EE), (0x4000220, 0), (0x4000228, 0)],
    State.reset.readReg 0 e.1 = BitVec.ofNat 64 e.2) ∧
  (∀ (s : State), s = { State.reset with power := { State.reset.power with ready := true } } →
    (∀ e ∈ [(0x4000300, 0), (0x4000308, 0), (0x4000310, 0), (0x4000328, 0), (0x4000330, 0), (0x4000360, 0), (0x4000608, 0xA0000),
        (0x4000700, 0x20), (0x4000AA8, 0x3E800000000), (0x4008000, 0), (0x4008008, 0), (0x4008010, 0)],
      s.readReg 0 e.1 = BitVec.ofNat 64 e.2) ∧
    ∀ d : DieId, ∀ e ∈ [(0x100000, 0), (0x300008, 0), (0x300010, 0), (0x3A0078, 0x64), (0x500010, 0), (0x600000, 0x100000000),
        (0x600010, 0x3E80000), (0x700000, 0), (0x705000, 0), (0x800000, 0), (0x800008, 8), (0x800090, 0)],
      s.readReg 0 (d.val * 0x1000000 + e.1) = BitVec.ofNat 64 e.2)

/-! ### Resets and start-up (chapter 02) -/

/-- A power-on reset clears everything but the sealed store and what R62 keeps, and records its causes (R62, R64, R67):
by itself, by the supply monitor when VDD_CORE stays too low (R46), and when a rail leaves its range (R45; VDD_AON out of
range loses the thermal trip and PWR_STRAPS). The reset that ends when the rails are back is the supply monitor's (the model's
choice, log 104). PWRGD asserted with a rail out stops start-up at step 1 (R57). -/
def Obligations.PowerOnResets : Prop :=
  (∀ (cause : PorCause) (aon : Bool) (feed : BitVec 8) (s : State),
    ∃ t, exec (.powerOnReset cause aon feed) s = .next t ∧
      AfterPowerOn s (cause == .supplyMonitor || (cause == .rails && !s.power.railsOut.isEmpty && s.flagOf 0 (srcCause 6))) aon t ∧
      t.power.feedId = feed ∧ t.power.linkRefOff = s.power.linkRefOff ∧
      (cause = .rails → t.power.railsOut = []) ∧ (cause ≠ .rails → t.power.railsOut = s.power.railsOut) ∧
      (cause = .pwrgdRise → s.power.railsOut ≠ [] → t.power.booting = false ∧ t.power.bootFailed = true ∧ t.power.bootStep = 1 ∧
        t.power.bootCode = Status.bootSupplyFault)) ∧
  (∀ (feed : BitVec 8) (s : State),
    ∃ t, exec (.coreUndervoltExpiry feed) s = .next t ∧ AfterPowerOn s true true t ∧ t.power.feedId = feed) ∧
  (∀ (rail : Rail) (s : State),
    ∃ t, exec (.railOutOfRange rail) s = .next t ∧ AfterPowerOn s true (rail != .vddAon) t ∧ rail ∈ t.power.railsOut ∧
      t.power.booting = false ∧ t.power.feedId = (if rail = .vddAon then 0 else s.power.feedId))

/-- PERST_N, hot reset and package soft reset (R62): what a core reset leaves, with fences and applied records, the MSI-X state
and the IDE streams gone and every function in D0; the first two take the host link with them, the soft reset leaves it trained.
PWR_CORE_RATE keeps what it shows (the model's choice, log 110). -/
def Obligations.BusResets : Prop :=
  ∀ (s : State) (P : State → Prop), P = (fun t => Unfenced t ∧ t.msix = [] ∧ t.sec.ide = [] ∧ t.power.d3hot = [] ∧
      ∀ d : DieId, (t.die d.val).coreMv = (s.die d.val).coreMv ∧ (t.die d.val).rateMhz = (s.die d.val).rateMhz) →
    (∃ t, exec .perstN s = .next t ∧ AfterCoreReset s 1 t ∧ P t ∧ t.power.linkUp = false ∧ t.power.perst = true) ∧
    (∃ t, exec .hotReset s = .next t ∧ AfterCoreReset s 2 t ∧ P t ∧ t.power.linkUp = false) ∧
    (∃ t, exec .pkgReset s = .next t ∧ AfterCoreReset s 4 t ∧ P t ∧ t.power.linkUp = s.power.linkUp)

/-- The function level resets (R62, R204, R209, R217). The PF's is a core reset that keeps fences, applied records and ports. A
VF's clears its MSI-X table, its queues' state on the device and the PENDING bits routed to it; its enabled queues restart from
the ledger's committed cursors, and what their groups had prepared and not committed is gone. The dies' fences and applied
records, the Vat, the accumulators, the ports, the image state, other functions' tables and the queues of other owners that wait
for no commit stand. -/
def Obligations.FunctionLevelResets : Prop :=
  (∀ s : State, ∃ t, exec .pfFunctionLevelReset s = .next t ∧ AfterCoreReset s 3 t ∧ t.msix = [] ∧ t.ports = s.ports ∧
    ∀ d : DieId, (t.die d.val).fenced = (s.die d.val).fenced ∧ (t.die d.val).image = (s.die d.val).image) ∧
  (∀ (vf : Fin 64) (s : State), ∃ t, exec (.vfFunctionLevelReset vf) s = .next t ∧
    t = { s with msix := t.msix, power := t.power, queues := t.queues, groups := t.groups, srcs := t.srcs, pair := t.pair
                 dies := t.dies, ckpts := t.ckpts, streams := t.streams, ctxs := t.ctxs, pfxs := t.pfxs, jobs := t.jobs
                 adapters := t.adapters, buckets := t.buckets, blocks := t.blocks, hbm := t.hbm, tags := t.tags
                 host := t.host } ∧
    t.power = { s.power with d3hot := s.power.d3hot.filter (fun f => f != vf.val + 1) } ∧
    t.msixOf (vf.val + 1) = {} ∧ (∀ fn, fn ≠ vf.val + 1 → t.msixOf fn = s.msixOf fn) ∧
    (∀ d : DieId, (t.die d.val).fenced = (s.die d.val).fenced ∧ (t.die d.val).image = (s.die d.val).image) ∧
    (∀ Q, (s.queue Q).owner = vf.val + 1 → (t.queue Q).idle ∧ (t.queue Q).enable = (s.queue Q).enable ∧
      (t.queue Q).owner = vf.val + 1 ∧ (t.queue Q).ringBase = (s.queue Q).ringBase ∧
      (t.queue Q).cplBase = (s.queue Q).cplBase ∧
      ((s.queue Q).enable = true → (t.queue Q).committed = (s.queue Q).ledgerCursor (s.group (s.groupKey Q)).num ∧
        ∀ d : DieId, (t.group (gkey d.val (groupOf s Q))).prep = none)) ∧
    (∀ k, t.group k = { s.group k with prep := (t.group k).prep }) ∧
    (∀ Q, (s.queue Q).owner ≠ vf.val + 1 → (s.queue Q).resetWaiting = false → (s.queue Q).disableWaiting = false →
      t.queue Q = s.queue Q) ∧
    (∀ k, k % 16384 ≠ srcPrefixFree → k % 16384 ≠ srcGenFreed →
      (t.src k).flag = (s.src k).flag ∧ (t.src k).count = (s.src k).count ∧
      (∀ r, s.routeOfKey k = some r → r.troroik = false → r.fn = vf.val + 1 → (t.src k).pend = false)))

/-- A die reset clears that die and no other (R62): its fences, applied records, Vat and queue state; the HBM contents,
the keys and the other dies' fences, Vat and queues stand, but paired queues become held by the partner (R209); a die that a
self-test has kept out stays fenced (R63). A Troroik watchdog fences its die, stops its Troroik, whose sessions and running
operations are gone (the model's reading, log 107), and keeps the keys (R62, R32). Both record their cause. -/
def Obligations.DieResetAndWatchdog : Prop :=
  (∀ (d : DieId) (s : State), ∃ t, exec (.dieReset d) s = .next t ∧
    (t.die d.val).fenced = (s.die d.val).keptOut ∧ (t.die d.val).fencedWest = false ∧ (t.die d.val).fencedEast = false ∧
    (t.die d.val).image = none ∧
    (t.die d.val).bootStep = (if s.power.booting then 0 else if (s.die d.val).bootStep = 2 then 2 else 4) ∧
    (∀ a, a < 2 ^ 26 → t.vatByte (vkey d.val a) = 0) ∧
    (∀ Q, dieOfQ Q = d.val → (t.queue Q).idle ∧ (t.queue Q).sameSetup (s.queue Q)) ∧
    t.hbm = s.hbm ∧ t.tags = s.tags ∧ t.sec = s.sec ∧ t.store = s.store ∧ t.host = s.host ∧
    (∀ e : DieId, e ≠ d → (t.die e.val).fenced = (s.die e.val).fenced ∧ (t.die e.val).image = (s.die e.val).image ∧
      ∀ a, a < 2 ^ 26 → t.vatByte (vkey e.val a) = s.vatByte (vkey e.val a)) ∧
    (∀ Q, dieOfQ Q ≠ d.val → t.queue Q = { s.queue Q with heldByPartner := (t.queue Q).heldByPartner }) ∧
    (∀ Q, (s.queue Q).enable = true → (s.queue Q).paired = true → dieOfQ Q = d.val → (s.die d.val).fenced = false →
      (t.queue Q).heldByPartner = true) ∧
    t.flagOf 0 (srcCause 7) = true) ∧
  (∀ (d : DieId) (s : State), ∃ t, exec (.troroikWatchdog d) s = .next t ∧
    (t.die d.val).fenced = true ∧ t.sec.alive.getLsbD d.val = false ∧ t.sec.tenants = s.sec.tenants ∧
    t.store = s.store ∧ t.flagOf 0 (srcCause 8) = true ∧
    (s.primary = d.val → t.sec.spdm = [] ∧ t.sec.fwBusy = false ∧ t.sec.keyOp = .none) ∧
    (s.power.booting = false → (t.die d.val).bootStep = 2))

/-- Start-up of the package (R59, R60, R62, R172, R204, R335, R338): steps 1 and 3 hand on to the next; step 2 reads the stores,
rewrites those that lag, and boots on every die the first firmware copy that verifies and that the floor admits, or stops with
BOOT_FW_AUTH_FAIL where a record or a die has none; step 4 brings HBM into service, all zero after a power-on reset; a step that
fails stops start-up with its code and die; after step 6 the device is READY and every enabled queue resumes from its committed
cursor. -/
def Obligations.StartupSteps : Prop :=
  ∀ s : State, s.power.booting = true →
    (s.power.bootStep = 1 → ∃ t, exec (.startupStepEnd .package .ok) s = .next t ∧ t = { s with power := t.power } ∧
      t.power.bootStep = 2 ∧ t.power.ready = s.power.ready) ∧
    (s.power.bootStep = 3 → exec (.startupStepEnd .package .ok) s = .next { s with power := { s.power with bootStep := 4 } }) ∧
    (s.power.bootStep = 2 →
      (s.loadStores = none → exec (.startupStepEnd .package .ok) s = .next (s.bootFails 0 Status.bootFwAuthFail)) ∧
      (∀ x, s.loadStores = some x →
        ((∃ d : DieId, (s.adoptStore x).bootCopy d.val = none) → ∃ t, exec (.startupStepEnd .package .ok) s = .next t ∧
          t.power.booting = false ∧ t.power.bootFailed = true ∧ t.power.bootCode = Status.bootFwAuthFail) ∧
        ((∀ d : DieId, ((s.adoptStore x).bootCopy d.val).isSome = true) →
          ∃ t, exec (.startupStepEnd .package .ok) s = .next t ∧
            t = { s with power := { s.power with bootStep := 3 }, sec := t.sec, dies := t.dies, store := x, stores := t.stores
                         free := t.free } ∧
            t.sec.alive = 15 ∧ ∀ d : DieId, t.storeOf d.val = x ∧
              (s.adoptStore x).bootCopy d.val = some ((t.die d.val).firmware, (t.die d.val).copyB)))) ∧
    (s.power.bootStep = 4 → (∀ d : DieId, (s.die d.val).anyLost = false) →
      ∃ t, exec (.startupStepEnd .package .ok) s = .next t ∧ t.power = { s.power with bootStep := 5 } ∧
        (∀ d : DieId, t.die d.val = { s.die d.val with hbm := .inService }) ∧
        (s.power.bootPor = true → t.hbm = [] ∧ t.tags = []) ∧ (s.power.bootPor = false → t.hbm = s.hbm ∧ t.tags = s.tags)) ∧
    (∀ ts : List SelfTest, s.power.bootStep = 5 → ts.length = 4 → (∀ x ∈ ts, selfTestFailure x = none) →
      ∃ t, exec (.startupStepEnd .package (.selfTest ts)) s = .next t ∧ t.power = { s.power with bootStep := 6 } ∧
        ∀ (d : DieId) (x : SelfTest), ts[d.val]? = some x → (t.die d.val).colsWest = x.colsWest ∧
          (t.die d.val).colsEast = x.colsEast ∧ (t.die d.val).wWest = 512 - ones x.colsWest ∧
          (t.die d.val).lanes0 = 256 - x.lanes0 ∧ (t.port (2 * d.val)).lanes = x.portLo) ∧
    (∀ (d : DieId) (c : Code), c ∈ stepCodes s.power.bootStep.toNat →
      exec (.startupStepEnd .package (.fail d c)) s = .next { s with
        power := { s.power with bootFailed := true, booting := false, bootCode := c, bootDie := BitVec.ofNat 2 d.val } }) ∧
    (s.power.bootStep = 6 → ∃ t, exec (.startupStepEnd .package .ok) s = .next t ∧ t.power.ready = true ∧
      t.power.booting = false ∧ t.store = s.store ∧
      ∀ Q, (t.queue Q).enable = true → (t.queue Q).idle)

/-! ### Supplies, clocks, temperature, the power cap (chapter 02) -/

/-- Pins and readings that change a register each and nothing else: PWRGD falling stops doorbells and HBM writes (R58),
loss of PCIE_REFCLK or of the host link is loss of the package (R33, R51), training ends (R53), PERST_N is deasserted and
configuration requests are retried until step 3 has ended (R54) and after it set the function's power state (R53; log 112), a
refresh of PWR_CORE_RATE (R26), a refresh of HBM (R172). -/
def Obligations.PinsAndReadings : Prop :=
  (∀ s : State, ∃ t, exec .pwrgdFall s = .next t ∧
    t = { s with power := { s.power with pwrgd := false, doorbellsOff := true, hbmOff := true } } ∧
    t.hearsDoorbells = false ∧ ∀ a bs, t.setHbm a bs = t) ∧
  (∀ (c : Instr) (s : State), c = .pcieRefclkLoss ∨ c = .hostLinkDown → ∃ t, exec c s = .next t ∧
    t = { s with power := { s.power with linkUp := false, linkDegraded := false, lost := true } } ∧
    t.hearsDoorbells = false) ∧
  (∀ (x16 gt64 : Bool) (s : State), exec (.hostLinkTrained x16 gt64) s =
    .next { s with power := { s.power with linkUp := true, linkDegraded := !(x16 && gt64) } }) ∧
  (∀ s : State, exec .perstDeassert s = .next { s with power := { s.power with perst := false } }) ∧
  (∀ (fn : Fn) (d3 : Option Bool) (s : State), ∃ t, exec (.configRequest ⟨fn, d3⟩) s = .next t ∧
    t = { s with power := { s.power with rrs := t.power.rrs, d3hot := t.power.d3hot } } ∧
    (t.power.rrs = true ↔ s.power.bootStep.toNat ≤ 3 ∧ s.power.ready = false) ∧
    (t.power.rrs = true ∨ d3 = none → t.power.d3hot = s.power.d3hot) ∧
    (∀ on, t.power.rrs = false → d3 = some on → (fn.val ∈ t.power.d3hot ↔ on = true) ∧
      ∀ g, g ≠ fn.val → (g ∈ t.power.d3hot ↔ g ∈ s.power.d3hot))) ∧
  (∀ (d : DieId) (mv mhz : BitVec 16) (s : State), ∃ t, exec (.coreRateRefresh d mv mhz) s = .next t ∧
    t = { s with dies := t.dies } ∧ t.die d.val = { s.die d.val with coreMv := mv, rateMhz := mhz } ∧
    ∀ e, e ≠ d.val → t.die e = s.die e) ∧
  (∀ (d : DieId) (st : StackId) (s : State), exec (.hbmRefresh d st) s = .next s)

/-- The reference clocks (R51, R52). With SYS_REFCLK_B present the loss of SYS_REFCLK_A switches to it, once, and is
logged; the loss of the reference in use with no other left stops HBM access and loses the package. A lost LNK_REFCLK takes
the external ports of its die down, and only them. -/
def Obligations.ReferenceClocks : Prop :=
  (∀ s : State, s.power.refBActive = false → s.power.refB = true → ∃ t, exec .refclkALoss s = .next t ∧
    t = { s with power := { s.power with refA := false, refBActive := true }, dies := t.dies, srcs := t.srcs } ∧
    Posted s t s.primary 0x0004 Status.ok 0) ∧
  (∀ s : State, s.power.refBActive = false → s.power.refB = false → exec .refclkALoss s =
    .next { s with power := { s.power with refA := false, hbmOff := true, lost := true } }) ∧
  (∀ s : State, s.power.refBActive = true → exec .refclkALoss s = .next { s with power := { s.power with refA := false } }) ∧
  (∀ s : State, s.power.refBActive = true ∨ s.power.refA = false → exec .sysRefclkBLoss s =
    .next { s with power := { s.power with refB := false, hbmOff := true, lost := true } }) ∧
  (∀ s : State, s.power.refBActive = false → s.power.refA = true → exec .sysRefclkBLoss s =
    .next { s with power := { s.power with refB := false } }) ∧
  (∀ (d : DieId) (s : State), ∃ t, exec (.lnkRefclkLoss d) s = .next t ∧
    t = { s with power := t.power, ports := t.ports, srcs := t.srcs, jobPlain := t.jobPlain } ∧
    t.power = { s.power with linkRefOff := s.power.linkRefOff ||| ((1 : BitVec 4) <<< d.val) } ∧
    (∀ p, p = 2 * d.val ∨ p = 2 * d.val + 1 → (t.port p).state = (s.port p).offState ∧
      ((s.port p).state = .up → t.flagOf d.val (srcPortDown p) = true ∧ (t.port p).lostCount =
        (s.port p).lostCount + BitVec.ofNat 64 ((s.port p).unacked.length + (s.port p).waiting.length))) ∧
    ∀ p, p ≠ 2 * d.val → p ≠ 2 * d.val + 1 → t.port p = s.port p)

/-- A droop is recorded only between 0.58 V and 0.65 V and for no more than 50 µs (R46). The regulator (R47): an
acknowledgement ends a fault, and the cap is enforced again from the next window; 100 µs without one sets AVS_FAULT and
suspends the cap; a retry that goes unacknowledged sets AVS_FAULT and CAP_UNMET. A window that misses the cap by more than
2 % at 0.65 V sets CAP_UNMET and is logged (R49). -/
def Obligations.DroopAndRegulator : Prop :=
  (∀ (mv : BitVec 16) (ns : BitVec 32) (s : State), 580 ≤ mv.toNat → mv.toNat < 650 → ns.toNat ≤ 50000 →
    ∃ t, exec (.coreDroop mv ns) s = .next t ∧ t = { s with dies := t.dies, srcs := t.srcs } ∧
      t.flagOf 0 srcDroop = true ∧ Posted s t s.primary 0x0001 Status.ok (mv.toNat * 2 ^ 48 + ns.toNat)) ∧
  (∀ (mv : BitVec 16) (ns : BitVec 32) (s : State), mv.toNat < 580 ∨ 650 ≤ mv.toNat ∨ 50000 < ns.toNat →
    exec (.coreDroop mv ns) s = .next s) ∧
  (∀ s : State, ∃ t, exec .avsAck s = .next t ∧ t = { s with power := { s.power with
      ackMv := s.power.requestMv, avsBad := false, capResume := t.power.capResume } } ∧
    (s.power.avsBad = true → t.power.capResume = true)) ∧
  (∀ s : State, ∃ t, exec .avsAckTimeout s = .next t ∧
    t = { s with power := { s.power with avsBad := true, capOn := false, capResume := false }, dies := t.dies, srcs := t.srcs } ∧
    t.flagOf 0 srcAvsFault = true ∧ Posted s t s.primary 0x0002 Status.ok s.power.ackMv.toNat) ∧
  (∀ s : State, s.power.avsBad = true → ∃ t, exec .avsRetry s = .next t ∧ t = { s with srcs := t.srcs } ∧
    t.flagOf 0 srcAvsFault = true ∧ t.flagOf 0 srcCapUnmet = true) ∧
  (∀ s : State, ∃ t, exec .capWindowEnd s = .next t ∧
    t = { s with power := { s.power with capOn := s.power.capOn || s.power.capResume, capResume := false },
                 dies := t.dies, srcs := t.srcs } ∧
    (if 102 * s.power.capW.toNat < 100 * s.power.powerW.toNat ∧ s.power.ackMv = 650 then
      t.flagOf 0 srcCapUnmet = true ∧ Posted s t s.primary 0x0003 Status.ok s.power.powerW.toNat
    else t.dies = s.dies ∧ t.srcs = s.srcs))

/-- PWR_CAP stores the nearest limit of a value outside its range and a value inside it as it is, whatever was there before, and
with the device READY and no hot junction the request does not lie above VMAX_MV (R47, R50). PKG_POWER_W is the average of the
last samples, 100 at most, rounded down (R48; the model's choice, log 36). -/
def Obligations.CapAndPower : Prop :=
  (∀ (w : BitVec 11) (v : BitVec 10) (s : State), ∃ t, exec (.pwrCapWrite w v) s = .next t ∧
     t = { s with power := { s.power with
       capW := t.power.capW, vmaxMv := t.power.vmaxMv, requestMv := t.power.requestMv, capActive := t.power.capActive } } ∧
     600 ≤ t.power.capW.toNat ∧ t.power.capW.toNat ≤ 1800 ∧ (600 ≤ w.toNat → w.toNat ≤ 1800 → t.power.capW = w) ∧
     (w.toNat < 600 → t.power.capW = 600) ∧ (1800 < w.toNat → t.power.capW = 1800) ∧
     650 ≤ t.power.vmaxMv.toNat ∧ t.power.vmaxMv.toNat ≤ 850 ∧ (650 ≤ v.toNat → v.toNat ≤ 850 → t.power.vmaxMv = v) ∧
     (v.toNat < 650 → t.power.vmaxMv = 650) ∧ (850 < v.toNat → t.power.vmaxMv = 850) ∧
     (s.power.ready = true → s.power.thermalHold = false → t.power.requestMv ≤ t.power.vmaxMv)) ∧
  (∀ (w : BitVec 16) (s : State), ∃ t, exec (.powerSample w) s = .next t ∧
     t = { s with power := { s.power with samples := t.power.samples, powerW := t.power.powerW } } ∧
     t.power.samples = (w :: s.power.samples).take 100 ∧
     t.power.powerW.toNat * t.power.samples.length ≤ (t.power.samples.map BitVec.toNat).sum ∧
     (t.power.samples.map BitVec.toNat).sum < (t.power.powerW.toNat + 1) * t.power.samples.length)

/-- A voltage step moves the request by 5 mV at most, stays between 0.65 V and VMAX_MV, goes down while the average lies
above CAP_W (the model's reading of the threshold, log 36) and up once it is 5 % below, and not at all while the cap is
not enforced or a hot junction holds 0.65 V (R47, R48, R66). -/
def Obligations.VoltageStepsTowardTheCap : Prop :=
  ∀ s : State, ∃ t, exec .voltageStep s = .next t ∧
    t = { s with power := { s.power with requestMv := t.power.requestMv, capActive := t.power.capActive } } ∧
    (650 ≤ s.power.requestMv.toNat → s.power.requestMv.toNat ≤ s.power.vmaxMv.toNat →
      650 ≤ t.power.requestMv.toNat ∧ t.power.requestMv.toNat ≤ s.power.vmaxMv.toNat ∧
      t.power.requestMv.toNat ≤ s.power.requestMv.toNat + 5 ∧ s.power.requestMv.toNat ≤ t.power.requestMv.toNat + 5) ∧
    (s.power.capOn = false ∨ s.power.avsBad = true ∨ s.power.thermalHold = true → t = s) ∧
    (s.power.capOn = true → s.power.avsBad = false → s.power.thermalHold = false →
      (s.power.capW.toNat < s.power.powerW.toNat → 655 ≤ s.power.requestMv.toNat →
        t.power.requestMv.toNat = s.power.requestMv.toNat - 5) ∧
      (100 * s.power.powerW.toNat ≤ 95 * s.power.capW.toNat → s.power.requestMv.toNat + 5 ≤ s.power.vmaxMv.toNat →
        t.power.requestMv.toNat = s.power.requestMv.toNat + 5) ∧
      (s.power.powerW.toNat ≤ s.power.capW.toNat → 95 * s.power.capW.toNat < 100 * s.power.powerW.toNat → t = s))

/-- A read of a die's 16 sensors shows the highest and the lowest; above 105 °C the device requests 0.65 V and sets
THERMAL_HIGH (R66); from 115 °C on it latches the trip, asserts THERMTRIP_N and hears no doorbell (R67); it releases the
voltage only when every die reads below 100 °C. -/
def Obligations.ThermalLimits : Prop :=
  ∀ (d : DieId) (rs : Vector (BitVec 8) 16) (s : State), ∃ t, exec (.thermalSample d rs) s = .next t ∧
    t = { s with power := t.power, dies := t.dies, srcs := t.srcs } ∧
    (∀ r ∈ rs.toList, (t.die d.val).tjMin ≤ r ∧ r ≤ (t.die d.val).tjMax) ∧
    (t.die d.val).tjMin ∈ rs.toList ∧ (t.die d.val).tjMax ∈ rs.toList ∧
    (∀ e, e ≠ d.val → (t.die e).tjMax = (s.die e).tjMax) ∧
    (105 < (t.die d.val).tjMax.toNat → t.power.thermalHold = true ∧ t.power.requestMv = 650 ∧
      t.flagOf 0 srcThermalHigh = true) ∧
    (115 ≤ (t.die d.val).tjMax.toNat → t.power.tripLatch = true ∧ t.power.tripPin = true ∧ t.hearsDoorbells = false) ∧
    ((t.die d.val).tjMax.toNat < 115 → t.power.tripLatch = s.power.tripLatch ∧ t.power.lost = s.power.lost) ∧
    ((t.die d.val).tjMax.toNat ≤ 105 → t.srcs = s.srcs ∧
      (t.power.thermalHold = true ↔ s.power.thermalHold = true ∧ ¬ ∀ e : DieId, (t.die e.val).tjMax.toNat < 100))

/-! ### Clusters, counters, time (chapter 01) -/

/-- GATE (R28, R29, R40). A tile or vector cluster is gated when no started descriptor uses it, otherwise when the last one
has ended; ungating waits for the wake time, whose end clears GATED. A link port is gated at once and goes down. -/
def Obligations.Gates : Prop :=
  (∀ (c : Cluster) (s : State), s.power.ready = true → (∀ d p, c ≠ .port d p) →
    (∃ t, exec (.gate c true) s = .next t ∧ t = { s with blocks := t.blocks } ∧
      t.block (clusterKey c) = { s.block (clusterKey c) with
        gate := true, waking := false
        gated := (s.block (clusterKey c)).gated || !s.clusterBusy (clusterDie c) (clusterKey c % 134) }) ∧
    (∃ t, exec (.gate c false) s = .next t ∧ t = { s with blocks := t.blocks } ∧
      t.block (clusterKey c) = { s.block (clusterKey c) with gate := false, waking := (s.block (clusterKey c)).gated })) ∧
  (∀ (c : Cluster) (s : State), ∃ t, exec (.clusterWakeDone c) s = .next t ∧ t = { s with blocks := t.blocks } ∧
    (∀ k, k ≠ clusterKey c → t.block k = s.block k) ∧
    t.block (clusterKey c) =
      if (s.block (clusterKey c)).waking then { s.block (clusterKey c) with gated := false, waking := false }
      else s.block (clusterKey c)) ∧
  (∀ (d : DieId) (p : Fin 2) (s : State), s.power.ready = true → (s.block (clusterKey (.port d p))).gate = false →
    ∃ t, exec (.gate (.port d p) true) s = .next t ∧
      t = { s with blocks := t.blocks, ports := t.ports, srcs := t.srcs, jobPlain := t.jobPlain } ∧
      t.block (clusterKey (.port d p)) = { s.block (clusterKey (.port d p)) with gate := true, gated := true } ∧
      (t.port (2 * d.val + p.val)).state = (s.port (2 * d.val + p.val)).offState)

/-- FREEZE, CLEAR, FREEZE_ALL and RELEASE of the counter blocks (R40, R42): what each writes, in every block of the
package, and nothing else. -/
def Obligations.CounterBlocks : Prop :=
  ∀ s : State, s.power.ready = true →
    (∀ (c : Cluster) (on : Bool), ∃ t, exec (.freeze c on) s = .next t ∧ t = { s with blocks := t.blocks } ∧
      t.block (clusterKey c) = { s.block (clusterKey c) with freeze := on } ∧
      ∀ k, k ≠ clusterKey c → t.block k = s.block k) ∧
    (∀ c : Cluster, ∃ t, exec (.clear c) s = .next t ∧ t = { s with blocks := t.blocks } ∧
      t.block (clusterKey c) = { s.block (clusterKey c) with
        hs := 0, busyNs := 0, waitInNs := 0, waitOutNs := 0, gatedNs := 0, event := 0 } ∧
      ∀ k, k ≠ clusterKey c → t.block k = s.block k) ∧
    (∃ t, exec .freezeAll s = .next t ∧ t = { s with blocks := t.blocks, time := { s.time with sample := s.time.now } } ∧
      ∀ k, t.block k = if k < 536 then { s.block k with freeze := true } else s.block k) ∧
    (∃ t, exec .release s = .next t ∧ t = { s with blocks := t.blocks } ∧
      ∀ k, t.block k = if k < 536 then { s.block k with freeze := false } else s.block k)

/-- The counter clears (R137, R164, R189, R257, R309, R332, R352): each sets its counters of its die to zero and nothing
else. -/
def Obligations.CounterClears : Prop :=
  ∀ s : State, s.power.ready = true → ∀ d : DieId,
    (∃ t, exec (.convCountersClear d) s = .next t ∧ t = s.setDie d.val { s.die d.val with
      satCount := 0, ovfCount := 0, nonfiniteCount := 0, clampCount := 0, intSatCount := 0 }) ∧
    (∃ t, exec (.updCountersClear d) s = .next t ∧ t = s.setDie d.val { s.die d.val with updSkip := 0, updParams := 0 }) ∧
    (∃ t, exec (.vatCountersClear d) s = .next t ∧ t = s.setDie d.val { s.die d.val with violCount := 0, vatCeCount := 0 }) ∧
    (∃ t, exec (.memCountersClear d) s = .next t ∧ t = s.setDie d.val { s.die d.val with
      integFail := 0, keyMissing := 0
      stack0 := { (s.die d.val).stack0 with ceCount := 0, ueCount := 0 }
      stack1 := { (s.die d.val).stack1 with ceCount := 0, ueCount := 0 }
      stack2 := { (s.die d.val).stack2 with ceCount := 0, ueCount := 0 } }) ∧
    (∃ t, exec (.ctxTokensClear d) s = .next t ∧ t = s.setDie d.val { s.die d.val with tokens := [] }) ∧
    (∃ t, exec (.ckptMismatchClear d) s = .next t ∧ t = s.setDie d.val { s.die d.val with mismatchCount := 0 }) ∧
    (∃ t, exec .keyBusyCountClear s = .next t ∧ t = { s with sec := { s.sec with keyBusyCount := 0 } }) ∧
    (∃ t, exec (.lnkCountersClear d) s = .next t ∧ t = { s with dies := t.dies, ports := t.ports, jobPlain := t.jobPlain } ∧
      t.die d.val = { s.die d.val with tenantDrops := 0 } ∧ (∀ e, e ≠ d.val → t.die e = s.die e) ∧
      (∀ p, t.port p = if p = 2 * d.val ∨ p = 2 * d.val + 1
        then { s.port p with crcCount := 0, replayCount := 0, staleCount := 0, lostCount := 0 } else s.port p) ∧
      ∀ k, t.jobFlags k = if k / 4096 = d.val then { s.jobFlags k with raises := 0 } else s.jobFlags k)

/-- The time base (R37, R39, R284). LOG_TIME_SET sets it on a root whose time base has not been set, and then never again;
every port that is up in a role that carries timestamps sends one frame with its send time, and the root's first such frame
counts its time base as set (the model's reading, log 38); a timestamp frame that a port accepts leaves its times for the
answer. -/
def Obligations.TimeBase : Prop :=
  (∀ (v : Word) (s : State), s.power.ready = true → s.root = true → s.time.set = false →
    ∃ t, exec (.logTimeSet v) s = .next t ∧ t = { s with time := { s.time with now := v, set := true }, ports := t.ports }) ∧
  (∀ (v : Word) (s : State), s.root = false ∨ s.time.set = true → exec (.logTimeSet v) s = .next s) ∧
  (∀ s : State, ∃ t, exec .timestampSend s = .next t ∧
    t = { s with ports := t.ports, time := { s.time with set := t.time.set } } ∧
    (∀ p, p < 8 → (s.port p).state = .up → 1 ≤ s.role p → s.role p ≤ 8 →
      (∃ f : Frame, (t.port p).waiting = (s.port p).waiting ++ [(localOrigin, f)] ∧ f.typ = 4 ∧ f.w1 = s.time.now ∧
        f.w2 = (s.port p).peerSent) ∧
      (s.root = true → t.time.set = true)) ∧
    (∀ p, p < 8 → (s.port p).state ≠ .up → t.port p = s.port p)) ∧
  (∀ (p : PortId) (h : LinkHdr) (f : Frame) (s : State), (s.port p.val).state = .up → h.lseq = (s.port p.val).rxSeq →
    h.nak = false → 1 ≤ s.role p.val → s.role p.val ≤ 8 → f.typ = 4 → f.w2 = 0 →
    ∃ t, exec (.timestampFrameRx p h f) s = .next t ∧ t = { s with ports := t.ports, free := t.free } ∧
      (t.port p.val).peerSent = f.w1 ∧ (t.port p.val).peerArrival = s.time.now ∧
      (t.port p.val).rxSeq = (s.port p.val).rxSeq + 1)

/-! ### Fences and memory errors (R30, R32, R184 to R187) -/

/-- A pending handshake and a parity error fence their region (R30), and nothing else of the die unless the other region
was fenced already, which fences the die (R32). On a die with one queue, bound to the region and enabled, with nothing on
the device, that queue halts at its last completed entry with REGION_FENCED. -/
def Obligations.RegionFences : Prop :=
  ∀ (c : Instr) (d : DieId) (h : Half) (s : State), c = .handshakeTimeout d h ∨ c = .accParityError d h →
    s.fencedAt d.val h = false →
    ∃ t, exec c s = .next t ∧ (t.die d.val).regionFenced h = true ∧
      (t.die d.val).regionFenced h.other = (s.die d.val).regionFenced h.other ∧
      (t.die d.val).fenced = (s.die d.val).regionFenced h.other ∧
      t.flagOf d.val (srcRegionFence h) = true ∧
      (∀ e : DieId, e ≠ d → (t.die e.val).fenced = (s.die e.val).fenced ∧
        (t.die e.val).fencedWest = (s.die e.val).fencedWest ∧ (t.die e.val).fencedEast = (s.die e.val).fencedEast) ∧
      (∀ Q, s.queuesOf d.val = [Q] → (s.die d.val).regionFenced h.other = false → s.boundTo h Q = true →
        (s.queue Q).enable = true → (s.queue Q).halted = false → (s.queue Q).entries = [] →
        (t.queue Q).halted = true ∧ (t.queue Q).haltSeq = (s.queue Q).done ∧
        (t.queue Q).haltCode = Status.regionFenced ∧ (t.queue Q).done = (s.queue Q).done)

/-- A silent Troroik and the loss of a stack fence their die (R32, R187): its flag is set, the other dies see their
interfaces to it down and are not fenced, and its stationary records are gone. -/
def Obligations.DieFences : Prop :=
  ∀ (c : Instr) (d : DieId) (s : State), c = .troroikSilentTimeout d ∨ (∃ st why, c = .hbmCatastrophicError d st why) →
    (s.die d.val).fenced = false →
    ∃ t, exec c s = .next t ∧ (t.die d.val).fenced = true ∧ t.flagOf d.val (srcDieFence d.val) = true ∧
      (t.die d.val).statWest = none ∧ (t.die d.val).statEast = none ∧
      (∀ e : DieId, e ≠ d → (t.die e.val).fenced = (s.die e.val).fenced ∧ (t.die e.val).d2dDown.getLsbD d.val = true) ∧
      (∀ st why, c = .hbmCatastrophicError d st why → ((t.die d.val).stack st.val).lost = true) ∧
      (c = .troroikSilentTimeout d → t.sec.alive.getLsbD d.val = false)

/-- One access of the patrol scrub (R173, R185, R186) of a stack in service: it reads the next page of the stack, data first and
then metadata, and moves on, wrapping after the last. Correctable codewords are corrected, counted and set CE; an uncorrectable
one poisons the page and sets UE and POISON; a poisoned page counts again; a sound page changes no tag and no flag; no byte of
HBM changes. HBM in self-refresh is not read (R172). -/
def Obligations.PatrolScrub : Prop :=
  ∀ (d : DieId) (st : StackId) (s : State) (k : Stack) (p : Nat), k = (s.die d.val).stack st.val →
    p = stackPage d.val st.val k.scrubPos → s.power.hbmOff = false → k.lost = false →
    ((s.die d.val).hbm ≠ .inService → exec (.patrolScrubAccess d st) s = .next s) ∧
    ((s.die d.val).hbm = .inService → ∃ t, exec (.patrolScrubAccess d st) s = .next t ∧
      t = { s with dies := t.dies, tags := t.tags, hbmCond := t.hbmCond, srcs := t.srcs } ∧
      ((t.die d.val).stack st.val).scrubPos = (if k.scrubPos + 1 = 2 ^ 25 + 2 ^ 22 then 0 else k.scrubPos + 1) ∧
      (2 ^ 25 ≤ k.scrubPos → t = { s with dies := t.dies }) ∧
      (k.scrubPos < 2 ^ 25 →
        ((s.tag p).poison = true → t = { s with dies := t.dies } ∧
          ((t.die d.val).stack st.val).ueCount = k.ueCount + 1) ∧
        ((s.tag p).poison = false → s.badWords p .uncorrectable = [] →
          (s.badWords p .correctable = [] → t = { s with dies := t.dies }) ∧
          (s.badWords p .correctable ≠ [] → t.tags = s.tags ∧ t.badWords p .correctable = [] ∧
            ((t.die d.val).stack st.val).ceCount = k.ceCount + BitVec.ofNat 64 (s.badWords p .correctable).length ∧
            t.flagOf d.val (srcStack st.val 0) = true)) ∧
        ((s.tag p).poison = false → s.badWords p .uncorrectable ≠ [] → t.tag p = { s.tag p with poison := true } ∧
          (∀ j, j ≠ p → t.tag j = s.tag j) ∧ t.flagOf d.val (srcStack st.val 1) = true ∧
          t.flagOf d.val (srcStack st.val 2) = true)))

/-- The sweep of a rotation (R184, R350). A die that sweeps moves the next page under the older epoch to the newest one,
where its key, code and MAC are sound, and leaves its contents; a sweep that every die in service has ended without a
failure drops the older epoch's keys and says so, and one with a failure keeps them and is marked failed. -/
def Obligations.Sweeps : Prop :=
  (∀ (d : DieId) (p : Nat) (s : State), (s.die d.val).sweepActive = true → (s.die d.val).sweepRate ≠ 0 →
    (s.die d.val).fenced = false → s.power.hbmOff = false →
    s.sweepNextPage d.val (s.die d.val).sweepTenant.toNat = some p →
    (s.tag p).assigned = true → (s.tag p).owner = (s.die d.val).sweepTenant.toNat →
    (s.tenant (s.tag p).owner).hasKey (s.tag p).epoch = true →
    (s.tenant (s.tag p).owner).hasKey (s.tenant (s.tag p).owner).newest = true → s.macFits p = true → (s.tag p).poison = false →
    s.badWords p .correctable = [] → s.badWords p .uncorrectable = [] →
    ∃ t, exec (.sweepPage d) s = .next t ∧
      t = { s with dies := t.dies, tags := t.tags, hbmCond := t.hbmCond } ∧
      t.tag p = { s.tag p with epoch := (s.tenant (s.tag p).owner).newest, mac := t.macNow p } ∧
      (∀ k, k ≠ p → t.tag k = s.tag k) ∧ (t.die d.val).sweepPos = p % 2 ^ 28 + 1) ∧
  (∀ (n : Fn) (s : State), s.sweepOver n.val = true → ∃ t, exec (.sweepEnd n) s = .next t ∧
    t = { s with sec := t.sec, tags := t.tags, srcs := t.srcs } ∧ (t.tenant n.val).sweep = false ∧
    (∀ m, m ≠ n.val → t.tenant m = s.tenant m) ∧
    (if (s.tenant n.val).sweepBad then
      (t.tenant n.val).sweepFailed = true ∧ (t.tenant n.val).slot0 = (s.tenant n.val).slot0 ∧
        (t.tenant n.val).slot1 = (s.tenant n.val).slot1 ∧ t.tags = s.tags
    else
      (t.tenant n.val).hasKey (s.tenant n.val).older = false ∧ (t.tenant n.val).olderValid = false ∧
        t.flagOf 0 srcSweepEnded = true))

/-! ### Queues (chapter 08) -/

/-- A doorbell (R195, R192, R61, R342): one that the queue hears, inside an IDE stream that covers its slot where one is required,
and that lies within the ring waits for the ledger write and its acknowledgement; one at or below ACCEPTED changes nothing; one beyond COMMITTED plus the ring's entries, or any once
ACCEPTED is the greatest sequence number, sets OVERRUN and nothing else; one that is not heard changes nothing. -/
def Obligations.Doorbells : Prop :=
  ∀ (d : DieId) (q : QId) (fn : Fn) (tail : BitVec 48) (ide : Option IdeStream) (s : State) (x : Queue), s.queue (qnum d q) = x →
    ((x.enable = true ∧ s.hearsDoorbells = true ∧ (s.ideRequired = false ∨ s.ideCovers ide fn (qnum d q) = true) ∧
        s.mayWrite (qnum d q) fn = true) →
      (x.accepted ≠ 2 ^ 48 - 1 → x.accepted < tail.toNat → tail.toNat ≤ x.committed + 2 ^ x.log2 →
        ∃ t, exec (.doorbell d q fn tail ide) s = .next t ∧
          t = { s with queues := t.queues, ports := t.ports, free := t.free } ∧
          t.queue (qnum d q) = { x with tail := max x.tail tail.toNat, ackWaiting := true } ∧
          (∀ R, R ≠ qnum d q → t.queue R = s.queue R) ∧ (x.paired = false → t.ports = s.ports ∧ t.free = s.free)) ∧
      (x.accepted ≠ 2 ^ 48 - 1 → tail.toNat ≤ x.accepted → exec (.doorbell d q fn tail ide) s = .next s) ∧
      (x.accepted = 2 ^ 48 - 1 ∨ (x.accepted < tail.toNat ∧ x.committed + 2 ^ x.log2 < tail.toNat) →
        ∃ t, exec (.doorbell d q fn tail ide) s = .next t ∧ t = { s with srcs := t.srcs } ∧
          t.flagOf d.val (srcOverrun (qnum d q)) = true)) ∧
    (x.enable = false ∨ s.hearsDoorbells = false ∨ s.mayWrite (qnum d q) fn = false ∨
        (s.ideRequired = true ∧ s.ideCovers ide fn (qnum d q) = false) →
      exec (.doorbell d q fn tail ide) s = .next s)

/-- The acknowledgement of a doorbell ends the ledger write and raises ACCEPTED to the ledger's cursor, for a paired queue to the
lower of both sides' (R195, R206), rewrites the cursor block, and touches no other queue; without a doorbell that waits, or where
doorbells are no longer acknowledged or HBM is out of reach (R52, R58, R67), nothing happens. -/
def Obligations.DoorbellAcknowledged : Prop :=
  ∀ (d : DieId) (q : QId) (s : State) (x : Queue), s.queue (qnum d q) = x →
    (x.ackWaiting = true → s.hearsDoorbells = true → s.power.hbmOff = false → ∃ t, exec (.doorbellAck d q) s = .next t ∧
      t = { s with queues := t.queues, hbm := t.hbm, tags := t.tags, host := t.host } ∧
      (t.queue (qnum d q)).accepted = max x.accepted (if x.paired && !x.solo
        then min (max x.ledAcc x.tail) (SMap.get 0 s.pair.acc (qnum d q)) else max x.ledAcc x.tail) ∧
      t.queue (qnum d q) = { x with
        ledAcc := max x.ledAcc x.tail, tail := 0, accepted := (t.queue (qnum d q)).accepted
        ackWaiting := decide ((t.queue (qnum d q)).accepted < max x.ledAcc x.tail) } ∧
      ∀ R, R ≠ qnum d q → t.queue R = s.queue R) ∧
    (x.ackWaiting = false ∨ s.hearsDoorbells = false ∨ s.power.hbmOff = true → exec (.doorbellAck d q) s = .next s)

/-- An entry is fetched in order, from its slot of the ring, while its queue runs, it is accepted, and it is at most 16 ahead of
the first entry that has not started (R191, R197); otherwise nothing is fetched. The first entry that has not started (R196, R197)
starts where its header is sound, its wait is over, nothing holds it and every engine it needs grants it (R112, R144; the turn
within a class is the model's choice, log 138): the grant
is numbered and copies its chain slot, its stream slot and its tenant's transport key (R151, R264, R349); one that R193, R196 or
R351 refuses completes with its code and halts its queue there; one that must wait stays. -/
def Obligations.EntriesFetchedAndStarted : Prop :=
  (∀ (d : DieId) (q : QId) (s : State) (x : Queue), s.queue (qnum d q) = x →
     if s.queueRuns (qnum d q) x.nextSeq = true ∧ x.nextSeq ≤ x.accepted ∧
         (∀ e, x.firstFetched = some e → x.nextSeq ≤ e.seq + 16) then
       ∃ t, exec (.entryFetch d q) s = .next t ∧ t = { s with queues := t.queues } ∧
         t.queue (qnum d q) = { x with entries := x.entries ++
           [{ seq := x.nextSeq, desc := s.ringEntry (qnum d q) x.nextSeq, stat := .fetched }] } ∧
         ∀ R, R ≠ qnum d q → t.queue R = s.queue R
     else exec (.entryFetch d q) s = .next s) ∧
  (∀ (d : DieId) (q : QId) (s : State) (e : Entry), (s.queue (qnum d q)).firstFetched = some e →
     s.queueRuns (qnum d q) e.seq = true →
     (s.startFailure (qnum d q) e = none → s.mayStart (qnum d q) e = true → s.granted (qnum d q) e = true →
       ∃ t, exec (.entryStart d q) s = .next t ∧
         t = { s with queues := t.queues, grants := s.grants + 1, lastGrant := t.lastGrant } ∧
         t.queue (qnum d q) = (s.queue (qnum d q)).setEntry { e with
           stat := .started, grant := s.grants
           chain := if e.desc.cls = 2 then some (s.chain (dkey (dieOfQ (qnum d q)) 64 e.desc.chainSlot)) else none
           stream := if e.desc.cls = 2 ∨ e.desc.cls = 4 then
             some (s.streamSeen (dieOfQ (qnum d q)) (groupOf s (qnum d q)) e.desc.streamSlot) else none
           transport := if e.desc.cls = 10 then (s.tenant (s.ownerOf (qnum d q))).transport else none } ∧
         ∀ R, R ≠ qnum d q → t.queue R = s.queue R) ∧
     (s.startFailure (qnum d q) e = none → s.mayStart (qnum d q) e = false ∨ s.granted (qnum d q) e = false →
       exec (.entryStart d q) s = .next s) ∧
     (∀ c, s.startFailure (qnum d q) e = some c →
       ∃ t, exec (.entryStart d q) s = .next t ∧
         t = { s with queues := t.queues, hbm := t.hbm, tags := t.tags, host := t.host, srcs := t.srcs, dies := t.dies
                      blocks := t.blocks, streams := t.streams, ctxs := t.ctxs, pfxs := t.pfxs, jobs := t.jobs
                      adapters := t.adapters } ∧
         (t.queue (qnum d q)).halted = true ∧ (t.queue (qnum d q)).haltSeq = e.seq ∧ (t.queue (qnum d q)).haltCode = c ∧
         (∀ y ∈ (t.queue (qnum d q)).entries, y.seq ≤ e.seq) ∧ t.flagOf d.val (srcHalt (qnum d q)) = true ∧
         ∀ R, R ≠ qnum d q → t.queue R = s.queue R))

/-- An entry that has ended OK completes in sequence order (R198): its record lies in the completion area of OWNER, DONE
advances to it, it leaves the device, and the queue goes on. One that ended with another status halts its queue at once
(R199): HALT_SEQ and HALT_CODE, the halt event, later entries gone and what they wrote into pending halves taken out, a Thyme log
record. One that is not next in order waits. -/
def Obligations.EntryCompleted : Prop :=
  ∀ (d : DieId) (q : QId) (seq : BitVec 48) (s : State) (e : Entry) (c : Code),
    (s.queue (qnum d q)).entry seq.toNat = some e → e.stat = .ended c →
    (c = Status.ok → ∀ rest, (s.queue (qnum d q)).entries = e :: rest → seq.toNat = (s.queue (qnum d q)).done + 1 →
      (∀ y ∈ rest, y.seq ≠ e.seq ∧ (y.stat = .fetched ∨ y.stat = .started)) →
      bitAt (s.queue (qnum d q)).cplBase 0 = false → seq.toNat % 2 ^ (s.queue (qnum d q)).log2 < 2 ^ 22 →
      ∃ t, exec (.entryComplete d q seq) s = .next t ∧
        t = { s with queues := t.queues, host := t.host, srcs := t.srcs, blocks := t.blocks } ∧
        t.queue (qnum d q) = { s.queue (qnum d q) with done := seq.toNat, entries := rest } ∧
        (∀ R, R ≠ qnum d q → t.queue R = s.queue R) ∧
        t.readArea (s.queue (qnum d q)).owner (s.queue (qnum d q)).cplBase
          (0x40 + 16 * (seq.toNat % 2 ^ (s.queue (qnum d q)).log2)) 16 = cplRecord seq.toNat Status.ok s.time.now ∧
        (e.desc.irq = true → t.flagOf d.val (srcComplete (qnum d q)) = true) ∧
        (e.desc.irq = false → t.srcs = s.srcs)) ∧
    (c = Status.ok → seq.toNat ≠ (s.queue (qnum d q)).done + 1 → exec (.entryComplete d q seq) s = .next s) ∧
    (c ≠ Status.ok → (∀ y ∈ (s.queue (qnum d q)).entries, ∀ k, y.stat = .ended k → y = e) →
      ∃ t, exec (.entryComplete d q seq) s = .next t ∧
      (t.queue (qnum d q)).halted = true ∧ (t.queue (qnum d q)).haltSeq = e.seq ∧ (t.queue (qnum d q)).haltCode = c ∧
      (∀ y ∈ (t.queue (qnum d q)).entries, y.seq ≤ e.seq) ∧ t.flagOf d.val (srcHalt (qnum d q)) = true ∧
      (∀ R, R ≠ qnum d q → t.queue R = s.queue R) ∧ t.vat = s.vat ∧
      (bitAt (s.queue (qnum d q)).cplBase 0 = false → t.hbm = s.hbm ∧ t.tags = s.tags) ∧
      ∀ k, t.ctx k = (s.ctx k).undo (qnum d q) e.seq ∧ t.stream k = (s.stream k).undo (qnum d q) e.seq)

/-- RESUME_SKIP, QUEUE_RESET and writes of ENABLE (R190, R192, R200, R201), by a function that may write the queue: a halted
queue goes on after the entry it halted at, a queue that runs is left alone; a reset discards the work beyond the ledger's
committed cursor, or waits for a prepared commit, and leaves a paired queue halted that side 1 holds (R206); an enable binds the queue to its tenant; a disable clears its cursors. -/
def Obligations.QueueControl : Prop :=
  ∀ (d : DieId) (q : QId) (fn : Fn) (v : Word) (s : State) (x : Queue), s.queue (qnum d q) = x → s.power.ready = true →
    (s.mayControl (qnum d q) fn = true → x.halted = true → x.paired = false →
      ∃ t, exec (.resumeSkip d q fn) s = .next t ∧
        t = { s with queues := t.queues, hbm := t.hbm, tags := t.tags, host := t.host } ∧
        t.queue (qnum d q) = { x with halted := false } ∧
        ∀ R, R ≠ qnum d q → t.queue R = s.queue R) ∧
    (x.halted = false → exec (.resumeSkip d q fn) s = .next s) ∧
    (s.mayControl (qnum d q) fn = true → s.preparedFor (qnum d q) = false →
      ∃ t, exec (.queueReset d q fn) s = .next t ∧ (t.queue (qnum d q)).entries = [] ∧
        (t.queue (qnum d q)).done = (t.queue (qnum d q)).committed ∧
        (t.queue (qnum d q)).halted = s.pairHalted (qnum d q) ∧
        (t.queue (qnum d q)).committed = x.ledgerCursor (s.group (s.groupKey (qnum d q))).num ∧
        (t.queue (qnum d q)).accepted = (t.queue (qnum d q)).committed ∧ (t.queue (qnum d q)).enable = x.enable ∧
        (t.queue (qnum d q)).owner = x.owner ∧ (∀ R, R ≠ qnum d q → t.queue R = s.queue R) ∧
        (bitAt x.cplBase 0 = false → t.hbm = s.hbm ∧ t.tags = s.tags) ∧ t.vat = s.vat ∧ t.groups = s.groups) ∧
    (s.mayControl (qnum d q) fn = true → s.preparedFor (qnum d q) = true →
      exec (.queueReset d q fn) s = .next (s.setQueue (qnum d q) { x with resetWaiting := true })) ∧
    (∀ b : Binding, s.mayWrite (qnum d q) fn = true → x.enable = false → s.binding (qnum d q) = some b → bitAt v 7 = false →
      ∃ t, exec (.queueEnable d q fn v) s = .next t ∧ t = { s with queues := t.queues } ∧
        (t.queue (qnum d q)).enable = true ∧ (t.queue (qnum d q)).owner = b.tenant ∧
        (t.queue (qnum d q)).cgroup = BitVec.ofNat 8 (fld v 23 16) ∧ (t.queue (qnum d q)).paired = false ∧
        6 ≤ (t.queue (qnum d q)).log2 ∧ (t.queue (qnum d q)).log2 ≤ 22 ∧
        (t.queue (qnum d q)).ringBase = x.ringBase ∧ (t.queue (qnum d q)).cplBase = x.cplBase ∧
        ∀ R, R ≠ qnum d q → t.queue R = s.queue R) ∧
    (s.mayWrite (qnum d q) fn = true → x.enable = true → s.preparedFor (qnum d q) = false →
      ∃ t, exec (.queueDisable d q fn v) s = .next t ∧ (t.queue (qnum d q)).enable = false ∧
        (t.queue (qnum d q)).entries = [] ∧ (t.queue (qnum d q)).accepted = 0 ∧ (t.queue (qnum d q)).done = 0 ∧
        (t.queue (qnum d q)).committed = 0 ∧ (t.queue (qnum d q)).halted = false ∧
        (t.queue (qnum d q)).ringBase = x.ringBase ∧ (∀ R, R ≠ qnum d q → t.queue R = s.queue R)) ∧
    (s.mayWrite (qnum d q) fn = false → exec (.queueEnable d q fn v) s = .next s ∧ exec (.queueDisable d q fn v) s = .next s)

/-- The end of an engine's work sets the status of the one entry that was started and nothing else, but for gates that waited for
it (R28, R197, R198). A descriptor without an operation ends OK when its body is zero, otherwise with DESC_FIELD_RANGE, and has
no other effect (R194). -/
def Obligations.EngineEnds : Prop :=
  (∀ (d : DieId) (q : QId) (seq : BitVec 48) (c : Code) (s : State) (x : Desc), Started s d q seq x →
     s.engineEnds d q seq c = { s with queues := (s.engineEnds d q seq c).queues, blocks := (s.engineEnds d q seq c).blocks } ∧
     (∃ e, ((s.engineEnds d q seq c).queue (qnum d q)).entry seq.toNat = some e ∧ e.stat = .ended c ∧ e.desc = x) ∧
     (s.engineEnds d q seq c).queue (qnum d q) = (s.queue (qnum d q)).setStat seq.toNat (.ended c) ∧
     (∀ R, R ≠ qnum d q → (s.engineEnds d q seq c).queue R = s.queue R) ∧
     (∀ k, (s.engineEnds d q seq c).block k = s.block k ∨ (k / 134 = d.val ∧ (s.block k).gate = true ∧
       (s.engineEnds d q seq c).block k = { s.block k with gated := true }))) ∧
  (∀ (d : DieId) (q : QId) (seq : BitVec 48) (s : State) (x : Desc), Started s d q seq x → x.cls = 0 →
     exec (.noOperation d q seq) s = .next (s.engineEnds d q seq
       (if x.w10 = 0 ∧ x.w18 = 0 ∧ x.w20 = 0 ∧ x.w28 = 0 ∧ x.w30 = 0 ∧ x.w38 = 0 then Status.ok else Status.descFieldRange)))

/-! ### The matrix array and the vector engine (chapters 04 to 06) -/

/-- Array descriptors (R95, R98, R100, R109 to R111, R116, R118 to R120). One that passes its checks ends OK: its banks carry the
tag of its tenant and numeric kind, and are passed to read-out where it says RELEASE; without REUSE_B the cells and their shadows
hold the rows of B that no mask leaves out; every entry of its rows and columns, on one half, on the ganged pair and on the
input-gradient half, holds the product of A with the cells formed on what the bank held, and with WGRAD the other half holds the
weight gradient; the Vat, HBM, the host's memory and every queue but the entry's status stay.
One whose bank is with read-out waits; one that breaks check 1 or 2 ends with DESC_FIELD_RANGE or ILLEGAL_IN_STATE, with no
other effect. -/
def Obligations.ArrayDescriptors : Prop :=
  ∀ (d : DieId) (q : QId) (seq : BitVec 48) (s : State) (x : Desc) (c : Instr), Started s d q seq x → x.cls = 1 →
    ((c = .arrayOneHalf d q seq ∧ x.op = 0) ∨ (c = .arrayGanged d q seq ∧ x.op = 1) ∨
      (c = .arrayGradientPair d q seq ∧ x.op = 2)) →
    (ArrayReady s d q (arrayOf x) → ∃ s1 : State, exec c s = .next (s1.engineEnds d q seq Status.ok) ∧
      s1 = { s with acc := s1.acc, banks := s1.banks, dies := s1.dies, blocks := s1.blocks, srcs := s1.srcs,
                    free := s1.free, cells := s1.cells, shadows := s1.shadows } ∧
      (∀ b ∈ (arrayOf x).banks d.val, (s1.bank b.1).tag = some (s.ownerOf (qnum d q), isInt (arrayOf x).a.fmt)) ∧
      ((arrayOf x).release = true → ∀ h ∈ (arrayOf x).bHalves, (s1.bank (bkey d.val h (arrayOf x).bank)).held = true) ∧
      (∀ W, W = (s.die d.val).width .west → (∀ n, n < (arrayOf x).n → ((arrayOf x).place d.val W n).2 < 512) →
        ((arrayOf x).reuse = true → x.op ≠ 2 → s1.cells = s.cells) ∧
        ((arrayOf x).reuse = false → ∀ r c e, r ∈ (arrayOf x).loaded → c < (arrayOf x).n →
          e = (if (arrayOf x).transB then (arrayOf x).b.elem (s.vatRd d.val) c r else (arrayOf x).b.elem (s.vatRd d.val) r c) →
          s1.cell ((arrayOf x).cellKey d.val W r c) = e ∧ s1.shadow ((arrayOf x).cellKey d.val W r c) = e) ∧
        (∀ m n k, m < (arrayOf x).m → n < (arrayOf x).n →
          k = akey ((arrayOf x).place d.val W n).1 ((arrayOf x).row0 + m) ((arrayOf x).place d.val W n).2 →
          s1.accEntry k = (((arrayOf x).main (s.vatRd d.val) (fun r c => s1.cell ((arrayOf x).cellKey d.val W r c))).entry m n
            (s.accEntry k)).val) ∧
        ((arrayOf x).wgrad = true → (arrayOf x).k ≤ 512 → ∀ m n k, m < (arrayOf x).n → n < (arrayOf x).k →
          k = akey (bkey d.val (arrayOf x).gradHalf.other (arrayOf x).bankX) ((arrayOf x).row0X + m) n →
          s1.accEntry k = (((arrayOf x).wgradProduct (s.vatRd d.val)).entry m n (s.accEntry k)).val))) ∧
    (s.arrayBad d.val (arrayOf x) = true → exec c s = .next (s.engineEnds d q seq Status.descFieldRange)) ∧
    (s.arrayBad d.val (arrayOf x) = false → s.arrayIllegal d.val (qnum d q) (arrayOf x) = true →
      exec c s = .next (s.engineEnds d q seq Status.illegalInState)) ∧
    (s.arrayBad d.val (arrayOf x) = false → s.arrayIllegal d.val (qnum d q) (arrayOf x) = false →
      vatCheck (s.groupOwns d.val (s.bind (qnum d q)).group) noCurds (arrayOf x).spans = none →
      s.arrayFenced d.val (arrayOf x) = false → (∃ b ∈ (arrayOf x).banks d.val, (s.bank b.1).held = true) →
      exec c s = .next s)

/-- An integer entry is the exact sum of the products of the rows that are fed, on top of what the bank held with ACC, clamped
to 32 bits, and says whether it was clamped (R107); with no row masked every contraction index is fed once (R100, R102). -/
def Obligations.IntegerEntriesAreExact : Prop :=
  ∀ (p : Product) (m n : Nat) (old : BitVec 32) (ia ib : Nat → Int), isInt p.fmtS = true → isInt p.fmtT = true →
    (∀ r, decodeElem p.fmtS (p.a m r).1 = .fin (ia r) 0) → (∀ r, decodeElem p.fmtT (p.b r n).1 = .fin (ib r) 0) →
    (∀ e : Int, e = (if p.acc then old.toInt else 0) + (p.allFed.map (fun r => ia r * ib r)).sum →
      (p.entry m n old).val.toInt = max (-2 ^ 31) (min (2 ^ 31 - 1) e) ∧
      ((p.entry m n old).intSat = true ↔ e < -2 ^ 31 ∨ 2 ^ 31 - 1 < e)) ∧
    (p.mask = 0 → p.nf2 = false → p.k ≤ kCap p.fmtS p.fmtT → p.allFed = List.range p.k)

/-- Vector descriptors (R110, R144 to R156). A tensor or a read-out that passes its checks ends OK and writes nothing of the
Vat outside its destination's and its row output's spans; a read-out returns its banks where it says so, and waits while it
does not hold them. A chain load that is admitted puts its record, up to the first END, into its slot for its tenant; one
whose record breaks R152 ends with DESC_FIELD_RANGE. HBM and the host's memory stay. -/
def Obligations.VectorDescriptors : Prop :=
  ∀ (d : DieId) (q : QId) (seq : BitVec 48) (s : State) (x : Desc), Started s d q seq x → x.cls = 2 →
    (∀ c : Instr, (c = .vectorTensor d q seq ∧ x.op = 0) ∨ (c = .accumulatorReadout d q seq ∧ x.op = 1) →
      (VectorReady s d q x (vecOf x) → ∃ s1 : State, exec c s = .next (s1.engineEnds d q seq Status.ok) ∧
        s1 = { s with vat := s1.vat, vatCond := s1.vatCond, dies := s1.dies, srcs := s1.srcs, blocks := s1.blocks,
                      banks := s1.banks, free := s1.free } ∧
        (∀ i, (∀ y ∈ (vecOf x).spans, y.write = true → i < vkey d.val y.base ∨ vkey d.val y.stop ≤ i) →
          s1.vatByte i = s.vatByte i) ∧
        (x.op = 1 → (vecOf x).ret = true → ∀ k ∈ (vecOf x).banks d.val, s1.bank k = { s.bank k with held := false }) ∧
        ((vecOf x).ret = false → s1.banks = s.banks)) ∧
      (s.vecBad d.val (vecOf x) (s.chainFor (qnum d q) x) = true →
        exec c s = .next (s.engineEnds d q seq Status.descFieldRange))) ∧
    (x.op = 1 → s.vecBad d.val (vecOf x) (s.chainFor (qnum d q) x) = false →
      s.vecIllegal d.val (qnum d q) (vecOf x) (s.chainFor (qnum d q) x) (s.streamFor (qnum d q) x) = false →
      vatCheck (s.groupOwns d.val (s.bind (qnum d q)).group) noCurds (vecOf x).spans = none →
      (∀ h ∈ (vecOf x).halves, s.fencedAt d.val h = false) → s.spanFenced d.val (vecOf x).spans = false →
      (∃ k ∈ (vecOf x).banks d.val, (s.bank k).held = false) → exec (.accumulatorReadout d q seq) s = .next s) ∧
    (∀ sp : Span, x.op = 2 → sp = { base := (vecOf x).a.addr, rowBytes := 160, stride := 0, rows := 1, write := false } →
      chainLoadBad x (vecOf x) sp = false →
      (s.chain (dkey d.val 64 (vecOf x).slot)).serves (s.ownerOf (qnum d q)) = true →
      vatCheck (s.groupOwns d.val (s.bind (qnum d q)).group) noCurds [sp] = none → s.spanFenced d.val [sp] = false →
      VatSound s d.val [sp] →
      (∀ ops, chainOps (words32 (s.vatBytes d.val sp.base 160) 32) = some ops →
        exec (.chainLoad d q seq) s = .next ((s.setChain (dkey d.val 64 (vecOf x).slot)
          { ops := ops, scalars := words32 ((s.vatBytes d.val sp.base 160).drop 128) 8,
            tag := some (s.ownerOf (qnum d q)), loaded := true }).engineEnds d q seq Status.ok)) ∧
      (chainOps (words32 (s.vatBytes d.val sp.base 160) 32) = none →
        exec (.chainLoad d q seq) s = .next (s.engineEnds d q seq Status.descFieldRange)))

/-! ### Memory and the update units (chapters 06 and 07) -/

/-- A copy that passes its checks and meets only good pages ends OK; every byte of its destination's rows holds the byte of
its source's row, and every other byte of HBM, of the Vat and of host memory is what it was (R176 to R179). -/
def Obligations.CopiesAreExact : Prop :=
  ∀ (d : DieId) (q : QId) (seq : BitVec 48) (s : State) (w : Desc) (x : MemDesc) (t : Nat), Started s d q seq w →
    w.cls = 3 → w.op = 0 → memOf w = x → s.ownerOf (qnum d q) = t → x.bad d.val = false →
    vatCheck (s.groupOwns d.val (s.bind (qnum d q)).group) (s.debugCurds d.val t) x.spans = none →
    s.spanFenced d.val x.spans = false → VatSound s d.val x.spans →
    (∀ r, r < x.rows → (x.srcSpace = 0 → RangeGood s t (x.src + r * x.srcStride : Nat) x.rowBytes) ∧
      (x.dstSpace = 0 → RangeGood s t (x.dst + r * x.dstStride : Nat) x.rowBytes)) →
    ∃ s1 : State, exec (.copy d q seq) s = .next (s1.engineEnds d q seq Status.ok) ∧
      s1 = { s with hbm := s1.hbm, tags := s1.tags, hbmCond := s1.hbmCond, vat := s1.vat, vatCond := s1.vatCond,
                    host := s1.host } ∧
      (∀ r i, r < x.rows → i < x.rowBytes → s1.spaceByte d.val t x.dstSpace (x.dst + r * x.dstStride + i) =
        s.spaceByte d.val t x.srcSpace (x.src + r * x.srcStride + i)) ∧
      (x.dstSpace ≠ 0 → s1.hbm = s.hbm ∧ s1.tags = s.tags) ∧ (x.dstSpace ≠ 1 → s1.vat = s.vat) ∧
      (x.dstSpace ≠ 2 → s1.host = s.host) ∧
      (x.dstSpace = 0 → ∀ b, (∀ r, r < x.rows → b < x.dst + r * x.dstStride ∨ x.dst + r * x.dstStride + x.rowBytes ≤ b) →
        s1.hbmByte b = s.hbmByte b) ∧
      (x.dstSpace = 1 → ∀ b, (∀ r, r < x.rows → b < vkey d.val (x.dst + r * x.dstStride) ∨
        vkey d.val (x.dst + r * x.dstStride) + x.rowBytes ≤ b) → s1.vatByte b = s.vatByte b) ∧
      (x.dstSpace = 2 → ∀ b, (∀ r, r < x.rows → b < hkey t (x.dst + r * x.dstStride) ∨
        hkey t (x.dst + r * x.dstStride) + x.rowBytes ≤ b) → s1.hostByte b = s.hostByte b)

/-- Page assign and page release (R181). An assign of pages none of which is assigned gives each of them to the tenant under
its newest epoch, zeroed, with its MAC (R182), and a release of assigned pages zeroes them and frees them; no other page or byte changes. A first
page that is assigned already, or is not assigned, ends the descriptor with its code and no other effect. -/
def Obligations.PageOwnership : Prop :=
  ∀ (d : DieId) (q : QId) (seq : BitVec 48) (s : State) (w : Desc) (x : MemDesc), Started s d q seq w → w.cls = 3 →
    memOf w = x → x.bad d.val = false → s.memIllegal (qnum d q) x = false →
    (w.op = 1 → (s.tenant x.tenant).hasKey (s.tenant x.tenant).newest = true →
      (∀ i, i < x.rows → (s.tag (pageOf x.dst + i)).assigned = false) →
      ∃ s1 : State, exec (.pageAssign d q seq) s = .next (s1.engineEnds d q seq Status.ok) ∧
        s1 = { s with hbm := s1.hbm, tags := s1.tags, hbmCond := s1.hbmCond } ∧
        (∀ p, s1.tag p = if pageOf x.dst ≤ p ∧ p < pageOf x.dst + x.rows then
            { owner := x.tenant, epoch := (s.tenant x.tenant).newest, cls := BitVec.ofNat 2 x.cls, enc := x.enc, assigned := true
              mac := s1.macNow p }
          else s.tag p) ∧
        (∀ b, s1.hbmByte b = if pageOf x.dst ≤ pageOf b ∧ pageOf b < pageOf x.dst + x.rows then 0 else s.hbmByte b)) ∧
    (w.op = 2 → (∀ i, i < x.rows → (s.tag (pageOf x.dst + i)).assigned = true) →
      ∃ s1 : State, exec (.pageRelease d q seq) s = .next (s1.engineEnds d q seq Status.ok) ∧
        s1 = { s with hbm := s1.hbm, tags := s1.tags, hbmCond := s1.hbmCond } ∧
        (∀ p, s1.tag p = if pageOf x.dst ≤ p ∧ p < pageOf x.dst + x.rows then {} else s.tag p) ∧
        (∀ b, s1.hbmByte b = if pageOf x.dst ≤ pageOf b ∧ pageOf b < pageOf x.dst + x.rows then 0 else s.hbmByte b)) ∧
    (w.op = 1 → (s.tag (pageOf x.dst)).assigned = true →
      exec (.pageAssign d q seq) s = .next (s.engineEnds d q seq Status.pageAssigned)) ∧
    (w.op = 2 → (s.tag (pageOf x.dst)).assigned = false →
      exec (.pageRelease d q seq) s = .next (s.engineEnds d q seq Status.pageNotOwned))

/-- The memory rows keep the three memories in canonical form, whatever their descriptor and however they end. -/
def Obligations.MemoryStaysCanonical : Prop :=
  ∀ (c : Instr) (d : DieId) (q : QId) (seq : BitVec 48) (s t : State),
    c ∈ [Instr.copy d q seq, .pageAssign d q seq, .pageRelease d q seq, .chainLoad d q seq, .vectorTensor d q seq,
      .accumulatorReadout d q seq, .momentumSgdUpdate d q seq, .adamUpdate d q seq, .signMomentumUpdate d q seq] →
    s.memoryOk = true → exec c s = .next t → t.memoryOk = true

/-- Update descriptors (R157 to R164). One that passes its checks and meets only good pages ends OK; each parameter of the
destination bank is the result of its step on the parameter, moments and gradient of the source bank; UPD_PARAMS counts the
parameters; no byte outside the ranges it writes changes, and neither does the Vat. -/
def Obligations.UpdateDescriptors : Prop :=
  ∀ (d : DieId) (q : QId) (seq : BitVec 48) (s : State) (w : Desc) (x : UpdDesc) (t : Nat) (c : Instr), Started s d q seq w →
    w.cls = 4 → updOf w = x → s.ownerOf (qnum d q) = t →
    ((c = .momentumSgdUpdate d q seq ∧ w.op = 0) ∨ (c = .adamUpdate d q seq ∧ w.op = 1) ∨
      (c = .signMomentumUpdate d q seq ∧ w.op = 2)) →
    (x.bad d.val = false → s.updIllegal d.val (qnum d q) x (s.streamFor (qnum d q) w) = false → (s.die d.val).fenced = false →
      (∀ r ∈ x.reads ++ x.writes, RangeGood s t r.1 r.2) →
      ∃ s1 : State, exec c s = .next (s1.engineEnds d q seq Status.ok) ∧
        s1 = { s with hbm := s1.hbm, tags := s1.tags, hbmCond := s1.hbmCond, dies := s1.dies, srcs := s1.srcs } ∧
        (s1.die d.val).updParams = (s.die d.val).updParams + BitVec.ofNat 64 x.count ∧
        (∀ j, j < x.count → s1.hbmBytes (x.dst (x.p + 4 * j)).toNat 4 =
          leBytes 4 (x.one (updRecOf (s.hbmBytes x.recAddr 64)) (s.paramAt x j)
            (x.grad (ofLe (s.hbmBytes (x.g + x.gBytes * j) x.gBytes)))
            (if x.conv.rnd = 2 then (s.streamFor (qnum d q) w).draw j % 2 ^ 16 else 0)).new.p.toNat) ∧
        (∀ b : Nat, (∀ r ∈ x.writes, (b : Int) < r.1 ∨ r.1 + r.2 ≤ b) → s1.hbmByte b = s.hbmByte b)) ∧
    (x.bad d.val = true → exec c s = .next (s.engineEnds d q seq Status.descFieldRange)) ∧
    (x.bad d.val = false → s.updIllegal d.val (qnum d q) x (s.streamFor (qnum d q) w) = false → (s.die d.val).fenced = true →
      exec c s = .next (s.engineEnds d q seq Status.regionFenced))

/-! ### Images and the turn (chapter 03) -/

/-- Images (R81 to R85, R92). A LOAD starts a load of the address and length in the registers. Its end, DONE, puts an image that
passed every check of R82, ordered while no turn was in progress, into the slot of its KIND with its digest, or keeps both slots and gives the code and offset of the first check
that failed. A DISCARD of an unknown KIND is refused; that of an inactive slot empties it and starts its erase, whose end
is DONE; that of the active slot starts a drain, and once the dies have removed the structure the slot is empty and no KIND
is active. -/
def Obligations.Images : Prop :=
  ∀ (v : Word) (k : Nat) (s : State), s.power.ready = true → k = fld v 9 8 →
    (s.img.work = .none → bitAt v 1 = false → exec (.load v) s = .next { s with img := { s.img with
        loadLen := BitVec.ofNat 32 (fld v 63 32), discardKind := BitVec.ofNat 2 k
        work := .loading s.img.loadAddr (BitVec.ofNat 32 (fld v 63 32)) (s.img.turnState != .idle) } }) ∧
    (∀ (dma turn : Bool) (a : Word) (l : BitVec 32) (rd : Nat → Byte), s.img.work = .loading a l turn →
      rd = (fun o => if o < l.toNat then s.hostByte (hkey 0 (a.toNat + o)) else 0) →
      ∃ t, exec (.imageLoadDone dma) s = .next t ∧ t = { s with img := t.img, srcs := t.srcs } ∧
        t.img.work = .none ∧ t.flagOf 0 srcImgDone = true ∧
        (∀ c o, s.imageCheck dma turn rd l.toNat = some (c, o) →
          t.img = { s.img with loadCode := c, failOffset := BitVec.ofNat 32 o, work := .none }) ∧
        (turn = true → s.imageCheck dma turn rd l.toNat ≠ none) ∧
        (∀ n, s.imageCheck dma turn rd l.toNat = none → n = (parseImage rd l.toNat).kind.toNat → t.img.loadCode = Status.ok ∧
          (t.img.slot n).image = some (parseImage rd l.toNat) ∧ (t.img.slot n).digest = (parseImage rd l.toNat).digest ∧ t.img.slot (3 - n) = s.img.slot (3 - n) ∧
          n ≠ s.img.activeKind.toNat)) ∧
    (s.img.work = .none → bitAt v 0 = false →
      (k = 0 ∨ k = 3 → ∃ t, exec (.discard v) s = .next t ∧ t = { s with img := t.img, srcs := t.srcs } ∧
        t.img.loadCode = Status.imgFieldRange ∧ t.img.work = .none ∧ t.flagOf 0 srcImgDone = true ∧
        t.img.serve = s.img.serve ∧ t.img.learn = s.img.learn) ∧
      (k = 1 ∨ k = 2 → s.img.turnState = .idle → (s.img.slot k).image.isSome = true →
        (k ≠ s.img.activeKind.toNat → ∃ t, exec (.discard v) s = .next t ∧ t = { s with img := t.img } ∧
          (t.img.slot k).image = none ∧ (t.img.slot k).erasing = true ∧ t.img.work = .discarding (BitVec.ofNat 2 k) ∧
          t.img.slot (3 - k) = s.img.slot (3 - k)) ∧
        (k = s.img.activeKind.toNat → ∃ t, exec (.discard v) s = .next t ∧ t = { s with img := t.img, queues := t.queues } ∧
          t.img.turnState = .drain ∧ t.img.work = .discarding (BitVec.ofNat 2 k) ∧ t.img.slot k = s.img.slot k))) ∧
    (∀ n : BitVec 2, s.img.work = .discarding n →
      ((s.img.slot n.toNat).erasing = true → ∃ t, exec .discardDone s = .next t ∧
        t = { s with img := t.img, srcs := t.srcs } ∧ (t.img.slot n.toNat).erasing = false ∧ t.img.work = .none ∧
        t.img.loadCode = Status.ok ∧ t.flagOf 0 srcImgDone = true) ∧
      ((s.img.slot n.toNat).erasing = false → s.img.turnState = .switch → ∃ s1 : State,
        exec .discardDone s = .next ((s1.goIdle.loadEnds Status.ok 0).keeping s) ∧ s1.img.activeKind = 0 ∧ s1.img.structKind = 0 ∧
        (s1.img.slot n.toNat).image = none ∧ s1.hbm = s.hbm ∧
        ∀ d : DieId, s.takesPart d → (s1.die d.val).image = none ∧ (s1.die d.val).switchHold = false) ∧
      ((s.img.slot n.toNat).erasing = false → s.img.turnState ≠ .switch → exec .discardDone s = .next s))

/-- START, ABORT and the ends of a turn's steps 1 and 6 (R86, R88, R89, R91). A START that R86 refuses gives its code and
changes nothing else; one with an image, of another KIND, on an idle device with aligned addresses begins a drain, in which a
queue with work beyond COMMITTED goes on to its next commit entry and a group that is quiet stops where it is. The drain ends
when every queue has, and the switch holds interrupt delivery; its limit ends the turn. ABORT ends a drain, and rolls a press
back. A rollback ends with the source's records applied again. Idle again, no queue has a drain point, and frames that were
held are let go. -/
def Obligations.TurnControl : Prop :=
  ∀ s : State, s.power.ready = true →
    (∀ (v : Word) (c : Code), bitAt v 3 = false → s.startRefusal (fld v 2 1) = some c →
      ∃ t, exec (.start v) s = .next t ∧ t = { s with img := { s.img with turnCode := c }, srcs := t.srcs } ∧
        t.flagOf 0 srcTurnFailed = true) ∧
    (∀ (v : Word) (n : Nat), bitAt v 3 = false → n = fld v 2 1 → s.img.turnState = .idle → s.img.work = .none →
      (n = 1 ∨ n = 2) → n ≠ s.img.activeKind.toNat → (s.img.slot n).image.isSome = true →
      s.img.pressBase.toNat % 64 = 0 → s.img.mapBase.toNat % 64 = 0 → s.img.weightsNext.toNat % 64 = 0 →
      ∃ t, exec (.start v) s = .next t ∧ t = { s with img := t.img, queues := t.queues } ∧
        t.img = { s.img.turnFields v with
          turnState := .drain, tStart := s.time.now, tSwitch := 0, tPress := 0, tFlip := 0 } ∧
        ∀ Q, t.queue Q = { s.queue Q with drain := (t.queue Q).drain } ∧
          ((s.queue Q).enable = true → s.drainsHere Q = false → (t.queue Q).drain = .nextCommit (s.queue Q).committed) ∧
          ((s.queue Q).enable = true → s.drainsHere Q = true → (∀ R ∈ members s (groupOf s Q), s.drainsHere R = true) →
            (t.queue Q).drain = .here)) ∧
    (∀ v : Word, bitAt v 0 = false →
      (s.img.turnState = .drain → s.img.discarding = false → s.holdsShards → ∃ t, exec (.abort v) s = .next t ∧
        t = { s with img := t.img, queues := t.queues, ports := t.ports, srcs := t.srcs } ∧ t.img.turnState = .idle ∧
        t.img.turnCode = Status.turnAborted ∧ t.flagOf 0 srcTurnFailed = true ∧
        (∀ Q, t.queue Q = { s.queue Q with drain := .off }) ∧ t.img.activeKind = s.img.activeKind) ∧
      (s.img.turnState = .press ∨ s.img.turnState = .await → ∃ t, exec (.abort v) s = .next t ∧
        t = { s with img := t.img, dies := t.dies, ports := t.ports } ∧ t.img.turnState = .rollback ∧
        t.img.rollCode = Status.turnAborted ∧ (∀ d : DieId, (t.die d.val).switchHold = !(s.die d.val).fenced) ∧
        ∀ p, p < 8 → ∀ f ∈ (t.port p).held, f.typ ≠ 1 ∧ f.typ ≠ 2) ∧
      (s.img.turnState = .switch → s.img.discarding = false →
        exec (.abort v) s = .next { s with img := { s.img with abortWaiting := true } }) ∧
      (s.img.turnState = .idle → exec (.abort v) s = .next { s with img := s.img.turnFields v })) ∧
    (s.img.turnState = .drain → s.allDrained = true → ∃ t, exec .turnDrainEnd s = .next t ∧
      t = { s with img := { s.img with turnState := .switch, switchFenced := false, abortWaiting := false }, dies := t.dies } ∧
      ∀ d : DieId, t.die d.val = { s.die d.val with switchHold := !s.img.discarding && !(s.die d.val).fenced }) ∧
    (s.img.turnState ≠ .drain ∨ s.allDrained = false → exec .turnDrainEnd s = .next s) ∧
    (s.img.turnState = .drain → s.img.discarding = false →
      exec .drainLimitExpiry s = .next ((s.goIdle.turnFailed Status.turnDrainTimeout).keeping s)) ∧
    (s.img.turnState ≠ .drain → exec .drainLimitExpiry s = .next s) ∧
    (s.img.turnState = .rollback → ∃ s1 : State, exec .rollbackDone s = .next ((s1.goIdle.turnFailed s.img.rollCode).keeping s) ∧
      s1.img = { s.img with structKind := s.img.activeKind } ∧ s1.hbm = s.hbm ∧
      ∀ d : DieId, s.takesPart d → (s1.die d.val).image = s.img.imageOf s.img.activeKind.toNat ∧
        (s1.die d.val).switchHold = false) ∧
    (s.holdsShards → ∃ t : State, s.goIdle = t ∧ t = { s with
        img := { s.img with turnState := .idle, abortWaiting := false, switchFenced := false }
        queues := t.queues, ports := t.ports } ∧
      (∀ Q, t.queue Q = { s.queue Q with drain := .off }) ∧ ∀ p, p < 8 → (t.port p).held = [])

/-- The steps 2 to 5 of a turn (R88, R90, R92, R293 to R296). The end of the switch applies the target's records, clears the
accumulators, the stationary records and the map, and starts the press, or rolls back when a fence or an ABORT came first. A press
descriptor that passes its checks writes its shard's bytes and makes the shard present; one that fails ends the turn and its
code stands in the list, and one that finds too few curds is a violation (R170). The end of the press flips at once when every shard is present and waits otherwise. At the deadline
every awaited shard is absent. A resend of a present shard whose copy is not sealed sends its frames, any other is refused (R343;
the refusal is the model's reading, log 122). -/
def Obligations.TurnSteps : Prop :=
  ∀ s : State,
    (s.img.turnState = .switch → s.img.discarding = false → s.img.switchFenced = false → s.img.abortWaiting = false →
      ∃ s1 : State, exec .structureSwitchEnd s = .next (s1.releaseHeld.keeping s) ∧
        s1.img = { s.img with structKind := s.img.target, tSwitch := s.time.now, turnState := .press, present := 0, absent := 0, copies := [] } ∧
        (∀ d : DieId, s.takesPart d → (s1.die d.val).image = s.img.imageOf s.img.target.toNat ∧
          (s1.die d.val).statWest = none ∧ (s1.die d.val).statEast = none ∧ (s1.die d.val).pressNext = 0 ∧
          (s1.die d.val).switchHold = false ∧
          ∀ (h : Half) (b r c : Nat), b < 2 → r < 1024 → c < 512 → s1.accEntry (akey (bkey d.val h b) r c) = 0) ∧
        (∀ i, i < s.shardCount → s.power.hbmOff = false → (s.shardTable.toNat + 16 * s.shardCount ≤ s.img.mapBase.toNat ∨
          s.img.mapBase.toNat + s.shardCount ≤ s.shardTable.toNat) → s1.shardState i = 0)) ∧
    (s.img.turnState = .switch → s.img.discarding = false → s.img.switchFenced = true ∨ s.img.abortWaiting = true →
      ∃ t, exec .structureSwitchEnd s = .next t ∧ t.img.turnState = .rollback ∧ t.hbm = s.hbm ∧
      t.img.rollCode = (if s.img.switchFenced then Status.regionFenced else Status.turnAborted) ∧
      ∀ p, p < 8 → ∀ f ∈ (t.port p).held, f.typ ≠ 1 ∧ f.typ ≠ 2) ∧
    (∀ (d : DieId) (i a owner : Nat) (x : PressDesc), s.img.turnState = .press → s.power.hbmOff = false →
      s.pressFind d.val (s.die d.val).pressNext = some i → a = s.img.pressBase.toNat + 64 * i →
      x = pressOf (descOfBytes (s.hbmBytes a 64)) → owner = (s.tag (pageOf x.src.addr)).owner →
      (∀ c, s.pressCheck x owner = some c → ∃ t, exec (.pressDescriptor d) s = .next t ∧
        t = { s with img := t.img, dies := t.dies, hbm := t.hbm, tags := t.tags, ports := t.ports, srcs := t.srcs, free := t.free
                     pressCode := c, pressIndex := BitVec.ofNat 22 i } ∧
        (c = Status.curdNotOwned → (t.die x.die).violCount = ctrAdd (s.die x.die).violCount 1 ∧
          t.flagOf x.die srcViolation = true) ∧
        t.img.turnState = .rollback ∧ t.img.rollCode = Status.turnPressFail ∧ t.hbmBytes (a + 0x3E) 2 = leBytes 2 c.toNat ∧
        ∀ b, b ≠ a + 0x3E → b ≠ a + 0x3F → t.hbmByte b = s.hbmByte b) ∧
      (∀ bs : List Byte, bs = x.bytes ((List.range x.rows).map (fun j => x.row s.hbmRd (s.stream (dkey x.die 2048 x.stream)).com j)) →
        s.pressCheck x owner = none → s.shardState x.shard ≠ 1 → (∀ r ∈ x.src.hbmSpan x.srcRows x.srcCols, RangeGood s owner (r.1 : Nat) r.2) →
        RangeGood s owner (x.dst : Nat) bs.length →
        s.mapAt x.shard < x.dst ∨ x.dst + bs.length ≤ s.mapAt x.shard →
        ∃ t, exec (.pressDescriptor d) s = .next t ∧
          t = { s with img := t.img, dies := t.dies, srcs := t.srcs, hbm := t.hbm, tags := t.tags, hbmCond := t.hbmCond
                       ports := t.ports } ∧
          t.img.turnState = .press ∧ (t.die d.val).pressNext = i + 1 ∧ t.shardState x.shard = 1 ∧
          (∀ k, k < bs.length → t.hbmByte (x.dst + k) = bs.getD k 0) ∧
          ∀ b, b < x.dst ∨ x.dst + bs.length ≤ b → b ≠ s.mapAt x.shard → t.hbmByte b = s.hbmByte b)) ∧
    (s.img.turnState = .press → s.pressAllDone = true →
      (s.img.present.toNat ≠ s.shardCount → exec .pressEnd s =
        .next { s with img := { s.img with turnState := .await, tPress := s.time.now } }) ∧
      (s.img.present.toNat = s.shardCount → ∃ t, exec .pressEnd s = .next t ∧ t = { s with srcs := t.srcs, img := { s.img with
          tPress := s.time.now, tFlip := s.time.now, turnState := .idle, activeKind := s.img.target
          activeWeights := s.img.weightsNext, turnCount := s.img.turnCount + 1 } } ∧
        t.flagOf 0 srcTurnDone = true)) ∧
    (s.img.turnState ≠ .press ∨ s.pressAllDone = false → exec .pressEnd s = .next s) ∧
    (s.img.turnState = .press ∨ s.img.turnState = .await → s.power.hbmOff = false →
      ∃ t, exec .shardDeadlineExpiry s = .next t ∧
        t = { s with hbm := t.hbm, tags := t.tags, img := t.img, dies := t.dies, srcs := t.srcs, ports := t.ports } ∧
        t.img = { s.img with turnCode := t.img.turnCode, absent := t.img.absent } ∧
        (∀ i, i < s.shardCount → t.shardState i = if s.shardState i = 0 then 2 else s.shardState i) ∧
        ((∃ i, i < s.shardCount ∧ s.shardState i = 0) →
          t.img.turnCode = Status.shardAbsent ∧ t.flagOf 0 srcTurnAbsent = true) ∧
        ∀ b, (∀ i, i < s.shardCount → b ≠ s.mapAt i) → t.hbmByte b = s.hbmByte b) ∧
    (∀ v : Word, s.power.ready = true →
      ((s.img.turnState = .press ∨ s.img.turnState = .await) ∧ fld v 63 42 < s.shardCount ∧ s.shardState (fld v 63 42) = 1 ∧
          fld v 33 26 ≠ 0 ∧ s.power.hbmOff = false ∧ (∀ c, c = s.shardCopy (fld v 63 42) →
            ∀ p ∈ rangePages c.1 c.2, s.sealedPage p = false) → ∃ t, exec (.go v) s = .next t ∧ t = { s with resendRefused := false, ports := t.ports } ∧
        ∀ p, ∃ fs : List Frame, (t.port p).waiting = (s.port p).waiting ++ fs.map (fun f => (localOrigin, f)) ∧
          ∀ f ∈ fs, f.typ = 1 ∧ fld f.w1 23 2 = fld v 63 42 ∧ fld f.w1 31 24 = fld v 33 26 ∧ fld f.w1 39 32 = fld v 41 34) ∧
      ((s.img.turnState ≠ .press ∧ s.img.turnState ≠ .await) ∨ s.shardCount ≤ fld v 63 42 ∨
          s.shardState (fld v 63 42) ≠ 1 ∨ fld v 33 26 = 0 ∨ s.power.hbmOff = true ∨
          (∃ c, c = s.shardCopy (fld v 63 42) ∧ ∃ p ∈ rangePages c.1 c.2, s.sealedPage p = true) → exec (.go v) s = .next { s with resendRefused := true }))

/-! ### Ports and frames (chapter 12) -/

/-- Ports (R40, R90, R279, R281 to R283, R285 to R287, R312). A port that trains and whose peer fits its role comes up with full
credit, fresh sequence numbers and nothing lost left to tell; another peer leaves it miswired. A retry settles a port that is
not up. A handshake sends the next frame that has credit, else an idle frame, as 512 bytes with the port's sequence number and
acknowledgement, counts in the port's block, and keeps the frame for replay, unless 512 wait. Exhausted replay takes the port down
and counts its frames as lost, and a shard of this turn that it lost and that is still awaited becomes absent. An exhausted die-to-die link is down for both its dies. -/
def Obligations.Ports : Prop :=
  ∀ (p : PortId) (s : State) (x : Port), s.port p.val = x →
    (∀ peer : PeerId, s.restState p.val = .training → x.state = .training →
      (peerFits s.coord (s.role p.val) peer = true → ∃ t, exec (.portTrainingDone p peer) s = .next t ∧
        t = { s with ports := t.ports, pair := { s.pair with partnerFeed := t.pair.partnerFeed }, srcs := t.srcs } ∧
        (t.port p.val).state = .up ∧ (t.port p.val).peer = some peer ∧ (t.port p.val).credit = fullCredit ∧
        (t.port p.val).txSeq = 0 ∧ (t.port p.val).rxSeq = 0 ∧ (t.port p.val).lostShards = [] ∧
        (t.port p.val).lostMarkers = [] ∧ (∀ r, r ≠ p.val → t.port r = s.port r) ∧
        (x.lostShards = [] → x.lostMarkers = [] → (t.port p.val).waiting = x.waiting) ∧
        (s.role p.val ≠ 7 → t.srcs = s.srcs ∧ t.pair = s.pair) ∧
        (s.role p.val = 7 → t.pair.partnerFeed = peer.feed ∧
          (peer.feed = s.power.feedId → t.flagOf 0 srcNotIndependent = true))) ∧
      (peerFits s.coord (s.role p.val) peer = false → ∃ t, exec (.portTrainingDone p peer) s = .next t ∧
        t = { s with ports := t.ports, srcs := t.srcs } ∧ t.port p.val = { x with state := .miswired, peer := some peer } ∧
        (∀ r, r ≠ p.val → t.port r = s.port r) ∧ t.flagOf (p.val / 2) (srcPortMiswired p.val) = true)) ∧
    (x.state = .training ∨ x.state = .down →
      exec (.trainingRetry p) s = .next (s.setPort p.val { x with state := s.restState p.val })) ∧
    (x.state ≠ .training → x.state ≠ .down → exec (.trainingRetry p) s = .next s) ∧
    (x.state = .up → x.unacked.length < 512 → ∃ t, exec (.frameSend p) s = .next t ∧
      t = { s with ports := t.ports, blocks := t.blocks, free := t.free } ∧
      (∀ r, r ≠ p.val → t.port r = s.port r) ∧ (t.port p.val).txSeq = x.txSeq + 1 ∧ (t.port p.val).nakDue = false ∧
      (∀ k, k = dkey (p.val / 2) 134 (132 + p.val % 2) → (s.block k).freeze = false → (t.block k).hs = ctrAdd (s.block k).hs 1) ∧
      ∃ (f : Frame) (hd : LinkHdr), (t.port p.val).unacked = x.unacked ++ [{ hdr := hd, sends := 1, frame := f }] ∧
        hd.lseq = x.txSeq ∧ hd.ack = x.rxSeq - 1 ∧ hd.nak = x.nakDue ∧ hd.credits.toNat ≤ 31 ∧
        (f.payload.length ≤ 480 → (frameBytes f hd).length = 512 ∧ fld (frameWord0 f hd) 63 52 = x.txSeq.toNat ∧
          fld (frameWord0 f hd) 51 40 = (x.rxSeq - 1).toNat ∧ fld (frameWord0 f hd) 23 15 = f.payload.length) ∧
        (∀ w, x.next = some w → f = w.2 ∧ (t.port p.val).waiting = x.waiting.erase w ∧ w ∈ x.waiting ∧
          SMap.get 0 (t.port p.val).credit (creditKey w.2.vc.toNat (frameClass w.2)) + 1 =
            SMap.get 0 x.credit (creditKey w.2.vc.toNat (frameClass w.2))) ∧
        (x.next = none → f = idleFrame ∧ (t.port p.val).waiting = x.waiting ∧ (t.port p.val).credit = x.credit)) ∧
    (x.state ≠ .up ∨ 512 ≤ x.unacked.length → exec (.frameSend p) s = .next s) ∧
    (x.state = .up → x.atLimit = true → ∃ t, exec (.replayExhausted p) s = .next t ∧
      t = { s with ports := t.ports, srcs := t.srcs, jobPlain := t.jobPlain, img := t.img, hbm := t.hbm, tags := t.tags
                   dies := t.dies } ∧
      (t.port p.val).state = s.restState p.val ∧ (t.port p.val).unacked = [] ∧ (t.port p.val).waiting = [] ∧
      t.flagOf (p.val / 2) (srcPortExhausted p.val) = true ∧ t.flagOf (p.val / 2) (srcPortDown p.val) = true ∧
      (s.img.turnState ≠ .press → s.img.turnState ≠ .await →
        t = { s with ports := t.ports, srcs := t.srcs, jobPlain := t.jobPlain } ∧
        (t.port p.val).lostCount = ctrAdd x.lostCount (x.unacked.length + x.waiting.length) ∧
        ∀ r, r ≠ p.val → t.port r = s.port r) ∧
      (s.img.turnState = .press ∨ s.img.turnState = .await → s.power.hbmOff = false → ∀ (i : Nat) (f : Frame),
        f ∈ x.unacked.map Sent.frame ++ x.waiting.map Prod.snd → f.typ = 1 → fld f.w1 63 40 = s.turnTag →
        i = fld f.w1 23 2 → i < s.shardCount → s.shardState i = 0 → t.shardState i = 2 ∧ t.flagOf 0 srcTurnAbsent = true)) ∧
    (x.state ≠ .up ∨ x.atLimit = false → exec (.replayExhausted p) s = .next s) ∧
    (∀ a b : DieId, a ≠ b → ∃ t, exec (.d2dReplayExhausted a b) s = .next t ∧
      t = { s with dies := t.dies, jobPlain := t.jobPlain, srcs := t.srcs } ∧
      t.die a.val = { s.die a.val with d2dDown := (s.die a.val).d2dDown ||| (1 <<< b.val) } ∧
      t.die b.val = { s.die b.val with d2dDown := (s.die b.val).d2dDown ||| (1 <<< a.val) } ∧
      ∀ e, e ≠ a.val → e ≠ b.val → t.die e = s.die e)

/-- The link level of a received frame of any type (R280, R284, R286). Out of order it is discarded and answered by a NAK;
on a port that trains or is miswired it is stale; a port without a link receives nothing; in order, it acknowledges frames,
and is stale where the port's role does not carry its type or its VC does not match its type (the latter is the model's choice,
log 128); a damaged frame is counted and answered by a NAK. -/
def Obligations.LinkLevel : Prop :=
  ∀ (p : PortId) (h : LinkHdr) (f : Frame) (m : PairMsg) (c : Instr) (typ : Nat) (s : State) (x : Port), s.port p.val = x →
    (c, typ) ∈ [(Instr.idleFrameRx p h, 0), (.shardFrameRx p h f, 1), (.absentMarkerRx p h f, 2), (.jobFrameRx p h f, 3),
      (.timestampFrameRx p h { f with typ := 4 }, 4), (.controlFrameRx p h m, 5)] →
    (x.state = .up → h.lseq ≠ x.rxSeq → exec c s = .next (s.setPort p.val { x with nakDue := true })) ∧
    (x.state = .training ∨ x.state = .miswired →
      exec c s = .next (s.setPort p.val { x with staleCount := ctrAdd x.staleCount 1 })) ∧
    (x.state = .down ∨ x.state = .absent → exec c s = .next s) ∧
    (s.accepts p h → typ = 0 ∨ carries (s.role p.val) typ = false → ∃ t, exec c s = .next t ∧
      t = { s with ports := t.ports, free := t.free } ∧ (t.port p.val).rxSeq = x.rxSeq + 1 ∧
      (t.port p.val).unacked = acked h.ack x.unacked ∧ (t.port p.val).waiting = x.waiting ∧
      (t.port p.val).staleCount = (if typ = 0 then x.staleCount else ctrAdd x.staleCount 1) ∧
      (h.credits = 0 → (t.port p.val).credit = x.credit ∧ t.free = s.free) ∧
      ∀ r, r ≠ p.val → t.port r = s.port r) ∧
    (∀ g : Frame, (c = .shardFrameRx p h f ∧ g = { f with typ := 1 }) ∨ (c = .absentMarkerRx p h f ∧ g = { f with typ := 2 }) ∨
        (c = .jobFrameRx p h f ∧ g = { f with typ := 3 }) → s.accepts p h → vcFits g = false → ∃ t, exec c s = .next t ∧
      t = { s with ports := t.ports, free := t.free } ∧ (t.port p.val).staleCount = ctrAdd x.staleCount 1 ∧
      (t.port p.val).rxSeq = x.rxSeq + 1) ∧
    (x.state = .up → exec (.badCrcFrameReceived p) s =
      .next (s.setPort p.val { x with crcCount := ctrAdd x.crcCount 1, nakDue := true })) ∧
    (x.state = .training ∨ x.state = .miswired → exec (.badCrcFrameReceived p) s =
      .next (s.setPort p.val { x with staleCount := ctrAdd x.staleCount 1 })) ∧
    (x.state = .down ∨ x.state = .absent → exec (.badCrcFrameReceived p) s = .next s)

/-- Shard and absent frames that a port accepts (R88, R90, R290 to R293). In the press, one of this turn whose distribution
entry keeps it: the shard's next bytes lie at its ADDR plus OFFSET, the received length stands in the table, and the last
bytes make the shard present; an absent marker makes an awaited shard absent. In a drain or a switch they are held; in any
other state, or of another turn, they are stale; one whose tenant tag fails is dropped and counted. -/
def Obligations.ShardFrames : Prop :=
  ∀ (p : PortId) (h : LinkHdr) (f : Frame) (s : State) (i : Nat), s.accepts p h → carries (s.role p.val) 1 = true → f.vc = 1 →
    i = fld f.w1 23 2 →
    (s.tagFails f = false → s.power.hbmOff = false → i < s.shardCount → fld f.w1 63 40 = s.turnTag →
      s.keeps (fld f.w1 39 32) = true →
      (∀ (off addr len : Nat), s.img.turnState = .press → s.shardState i ≠ 1 → off = fld f.w2 63 32 →
        addr = fld (s.targetWord i 0) 63 22 → len = fld (s.targetWord i 1) 63 32 →
        off = (if off = 0 then 0 else fld (s.targetWord i 1) 31 0) → off + f.payload.length ≤ len →
        RangeGood s f.tenant.toNat (addr + off : Nat) f.payload.length →
        (addr + off + f.payload.length ≤ s.targetAddr i ∨ s.targetAddr i + 16 ≤ addr + off) →
        (s.mapAt i < s.targetAddr i ∨ s.targetAddr i + 16 ≤ s.mapAt i) →
        (s.mapAt i < addr + off ∨ addr + off + f.payload.length ≤ s.mapAt i) →
        ∃ t, exec (.shardFrameRx p h f) s = .next t ∧
          t = { s with ports := t.ports, free := t.free, hbm := t.hbm, tags := t.tags, hbmCond := t.hbmCond, img := t.img } ∧
          t.hbmBytes (addr + off) f.payload.length = f.payload ∧ fld (t.targetWord i 0) 63 22 = addr ∧
          fld (t.targetWord i 1) 63 32 = len ∧ fld (t.targetWord i 1) 31 0 = off + f.payload.length ∧
          t.shardState i = (if f.last = true ∧ off + f.payload.length = len then 1 else s.shardState i) ∧
          t.img.turnState = .press ∧
          ∀ b, b < addr + off ∨ addr + off + f.payload.length ≤ b → b < s.targetAddr i ∨ s.targetAddr i + 16 ≤ b →
            b ≠ s.mapAt i → t.hbmByte b = s.hbmByte b) ∧
      (s.img.turnState = .press → s.shardState i = 0 → ∃ t, exec (.absentMarkerRx p h f) s = .next t ∧
        t = { s with ports := t.ports, free := t.free, hbm := t.hbm, tags := t.tags, img := t.img, dies := t.dies
                     srcs := t.srcs } ∧
        t.shardState i = 2 ∧ t.img.turnCode = Status.shardAbsent ∧ t.flagOf 0 srcTurnAbsent = true ∧
        ∀ b, b ≠ s.mapAt i → t.hbmByte b = s.hbmByte b)) ∧
    (∀ (c : Instr) (g : Frame), (c = .shardFrameRx p h f ∧ g = { f with typ := 1 }) ∨
        (c = .absentMarkerRx p h f ∧ g = { f with typ := 2 }) →
      (s.tagFails f = false → s.img.turnState = .drain ∨ s.img.turnState = .switch → ∃ t, exec c s = .next t ∧
        t = { s with ports := t.ports, free := t.free } ∧ (t.port p.val).held = (s.port p.val).held ++ [g]) ∧
      (s.tagFails f = false → s.img.turnState = .idle ∨ s.img.turnState = .rollback ∨
          ((s.img.turnState = .press ∨ s.img.turnState = .await) ∧ fld f.w1 63 40 ≠ s.turnTag) → ∃ t, exec c s = .next t ∧
        t = { s with ports := t.ports, free := t.free } ∧
        (t.port p.val).staleCount = ctrAdd (s.port p.val).staleCount 1 ∧ (t.port p.val).held = (s.port p.val).held) ∧
      (s.tagFails f = true → ∃ t, exec c s = .next t ∧
        t = { s with ports := t.ports, free := t.free, dies := t.dies, srcs := t.srcs } ∧
        (t.die (p.val / 2)).tenantDrops = ctrAdd (s.die (p.val / 2)).tenantDrops 1 ∧
        t.flagOf (p.val / 2) srcTenantDrop = true))

/-- Job and control frames that a port accepts (R206, R288, R297, R303, R304). A job frame for another package leaves by the
port of its next dimension in order, behind the frames that wait there; one for this package that comes before its bucket is
kept, and one of no bucket in the window is stale. A control frame of the mirror partner records what the partner says, and
what waited for it goes on; on the attach port it has no effect that the spec gives. -/
def Obligations.JobAndControlFrames : Prop :=
  ∀ (p : PortId) (h : LinkHdr) (f : Frame) (s : State), s.accepts p h →
    (∀ dest : Nat × Nat × Nat, carries (s.role p.val) 3 = true → vcFits { f with typ := 3 } = true → s.tagFails f = false → s.roleChanging p.val = false →
      dest = (fld f.w2 31 27, fld f.w2 26 22, fld f.w2 21 17) →
      (∀ r k, routeRole s.coord dest = some r → s.portOfRole r = some k → (s.port k).state = .up → s.pass k = true →
        s.crosses (p.val / 2) (k / 2) = true → ∃ t, exec (.jobFrameRx p h f) s = .next t ∧ t = { s with ports := t.ports, free := t.free } ∧
          (t.port k).waiting = (s.port k).waiting ++
            [(p.val, { f with typ := 3, dateline := f.dateline || s.wraps (s.role k) })] ∧
          ∀ m, m ≠ k → (t.port m).waiting = (s.port m).waiting) ∧
      (∀ K, routeRole s.coord dest = none → K = bucketKey (fld f.w1 63 52) (fld f.w1 51 28) → (s.bucket K).entries = [] →
        (s.frameEarly f = true → ∃ t, exec (.jobFrameRx p h f) s = .next t ∧
          t = { s with ports := t.ports, free := t.free, buckets := t.buckets } ∧
          t.bucket K = { s.bucket K with inbox := (s.bucket K).inbox ++ [(p.val, { f with typ := 3 })] } ∧
          ∀ L, L ≠ K → t.bucket L = s.bucket L) ∧
        (s.frameEarly f = false → ∃ t, exec (.jobFrameRx p h f) s = .next t ∧
          t = { s with ports := t.ports, free := t.free } ∧
          (t.port p.val).staleCount = ctrAdd (s.port p.val).staleCount 1))) ∧
    (s.role p.val = 7 →
      (∀ (q : Fin 4096) (tail : BitVec 48), ∃ t, exec (.controlFrameRx p h (.accepted q tail)) s = .next t ∧
        t = { s with ports := t.ports, free := t.free, pair := { s.pair with acc := t.pair.acc } } ∧
        SMap.get 0 t.pair.acc q.val = tail.toNat ∧
        ∀ k, k ≠ q.val → SMap.get 0 t.pair.acc k = SMap.get 0 s.pair.acc k) ∧
      (∀ (q : Fin 4096) (seq : BitVec 48) (m : PairMsg), m = .started q seq ∨ m = .prepared q ∨ m = .committed q →
        ∃ s1 t : State, exec (.controlFrameRx p h m) s = .next t ∧
          s1 = { s with ports := s1.ports, free := s1.free, pair := s1.pair } ∧
          t = { (s1.groupsGo [groupOf s q.val]).keeping s with ports := t.ports } ∧
          (m = .started q seq → SMap.get 0 s1.pair.start q.val = seq.toNat) ∧
          (m = .prepared q → SMap.get false s1.pair.prepared q.val = true) ∧
          (m = .committed q → SMap.get false s1.pair.committed q.val = true))) ∧
    (∀ m : PairMsg, s.role p.val = 9 → ∃ t, exec (.controlFrameRx p h m) s = .next t ∧
      t = { s with ports := t.ports, free := t.free })

/-! ### Commits and the mirror pair (chapters 08, 10, 11, 13) -/

/-- The commit of a group of one queue that works alone (R202 to R205, R234, R235, R266, R272 to R274). A commit entry that
fails a check halts its queue with the check's code, takes out what later entries wrote, and commits nothing. One that passes takes effect at once: COMMITTED and
DONE stand at it, the group's record carries its number, kind, banks and time, the banks named are flipped, the group's
pending halves become committed (a token commit first brings WR_END to LEN; a replay discards stream halves, and keeps TAG and
DATA_POS), and a step commit shows TAG in QUE_LEARN_STEP. The two phases by themselves prepare it and carry it out. -/
def Obligations.Commits : Prop :=
  ∀ (d : DieId) (q : QId) (seq : BitVec 48) (s : State) (Q g top : Nat) (e : Entry) (rest : List Entry) (x : Desc) (c : Instr),
    Q = qnum d q → g = groupOf s Q → Alone s Q → s.power.hbmOff = false → (s.queue Q).entry seq.toNat = some e →
    (s.queue Q).commitEntry = some e → (s.queue Q).entries = e :: rest → e.seq = (s.queue Q).done + 1 → e.desc = x →
    (∀ y ∈ rest, e.seq < y.seq ∧ (y.stat = .fetched ∨ y.stat = .started)) →
    (s.queue Q).resetWaiting = false → (s.queue Q).disableWaiting = false →
    (s.queue Q).ledgerCursor (s.group (gkey d.val g)).num ≠ e.seq → top = s.groupTop g + 1 →
    ((c = .plainCommit d q seq ∧ (x.op = 0 ∨ x.op = 3)) ∨ (c = .tokenCommit d q seq ∧ x.op = 1) ∨
      (c = .stepCommit d q seq ∧ x.op = 2 ∧ x.replay = false) ∨ (c = .stepReplayCommit d q seq ∧ x.op = 2 ∧ x.replay = true)) →
    ((s.group (gkey d.val g)).prep = none →
      (∀ k, s.commitCheck g = some k → ∃ t, exec c s = .next t ∧
        t = { s with queues := t.queues, groups := t.groups, srcs := t.srcs, dies := t.dies, hbm := t.hbm, tags := t.tags
                     host := t.host, blocks := t.blocks, streams := t.streams, ctxs := t.ctxs, pfxs := t.pfxs
                     jobs := t.jobs, adapters := t.adapters } ∧
        (t.queue Q).halted = true ∧ (t.queue Q).haltCode = k ∧ (t.queue Q).haltSeq = e.seq ∧
        (∀ R, R ≠ Q → t.queue R = s.queue R) ∧ (∀ i, t.stream i = (s.stream i).undo Q e.seq) ∧
        (t.queue Q).committed = (s.queue Q).committed ∧ (t.group (gkey d.val g)).num = (s.group (gkey d.val g)).num) ∧
      (s.commitCheck g = none → ∃ t, exec c s = .next t ∧
        t = { s with queues := t.queues, groups := t.groups, pbanks := t.pbanks, streams := t.streams, ctxs := t.ctxs
                     pfxs := t.pfxs, adapters := t.adapters, jobs := t.jobs, dies := t.dies, srcs := t.srcs
                     hbm := t.hbm, tags := t.tags, host := t.host, pair := t.pair } ∧
        (t.queue Q).committed = e.seq ∧ (t.queue Q).done = e.seq ∧ (t.queue Q).entries = rest ∧
        (t.queue Q).halted = (s.queue Q).halted ∧ (∀ R, R ≠ Q → t.queue R = s.queue R) ∧
        (t.group (gkey d.val g)).num = top ∧ (t.group (gkey d.val g)).prep = none ∧
        (t.group (gkey d.val g)).time = s.time.now ∧ (t.group (gkey d.val g)).banks = x.banks ∧
        (t.group (gkey d.val g)).tag = (if x.replay then (s.group (gkey d.val g)).tag else x.tag) ∧
        (∀ i, i < 16 → (t.pbank i).current = ((s.pbank i).current ^^ bitAt x.banks i)) ∧
        (∀ k, t.stream k = if x.op = 2 ∧ x.replay = true then (s.stream k).discard g else (s.stream k).commit g) ∧
        (∀ k, t.job k = (s.job k).commit g) ∧
        (x.op = 1 → SMap.wf (halves0 {}) s.ctxs = true → ∀ k (y : Ctx), (s.ctx k).pend = some y → (s.ctx k).group = g →
          t.ctx k = halves0 { y with wrEnd := y.len }) ∧
        (x.op = 2 → x.replay = false → (t.die d.val).learnStep = x.tag.truncate 32 ∧
          (t.die d.val).learn = (s.die d.val).learn.commit g)) ∧
      (s.commitCheck g = none → ∃ t, exec (.commitProceed d q) s = .next t ∧ t = { s with queues := t.queues, groups := t.groups } ∧
        (t.queue Q).ledgerCursor top = e.seq ∧ (t.queue Q).committed = (s.queue Q).committed ∧
        (t.group (gkey d.val g)).num = (s.group (gkey d.val g)).num ∧
        ∃ p, (t.group (gkey d.val g)).prep = some p ∧ p.num = top ∧ p.tag = x.tag ∧ p.banks = x.banks)) ∧
    (∀ p, (s.group (gkey d.val g)).prep = some p → (s.queue Q).ledgerCursor p.num = e.seq →
      exec (.commitProceed d q) s = .next s ∧
      ∃ t, exec (.commitPhase2 d q) s = .next t ∧ (t.queue Q).committed = e.seq ∧ (t.queue Q).done = e.seq ∧
        (t.group (gkey d.val g)).num = p.num ∧ (t.group (gkey d.val g)).prep = none ∧
        (t.group (gkey d.val g)).time = s.time.now ∧ ∀ R, R ≠ Q → t.queue R = s.queue R)

/-- The mirror pair (R206, R207). A partner that does not answer leaves side 0 alone, its paired queues SOLO and DEGRADED
shown, and halts the paired queues of side 1 with PAIR_DEGRADED at what they have done; with no queue that works jointly it
changes nothing. TAKEOVER lets side 1 go on alone, and does nothing on side 0. A fence at the partner sends the queues
bound to the fenced part, and their groups, on alone. What waited for the partner then goes on. -/
def Obligations.PairEvents : Prop :=
  ∀ s : State,
    (s.jointQueues = [] → exec .partnerTimeout s = .next s) ∧
    (s.jointQueues ≠ [] → s.coord.side = false → ∃ s1 : State,
      exec .partnerTimeout s = .next ((s1.groupsGo (s.groupsOf s.jointQueues)).keeping s) ∧
      (∀ Q ∈ s.jointQueues, (s1.queue Q).solo = true ∧ (s1.queue Q).committed = (s.queue Q).committed) ∧
      (s.soloShown = false → s1.flagOf 0 srcDegraded = true) ∧ s1.groups = s.groups) ∧
    (s.jointQueues ≠ [] → s.coord.side = true → ∃ t, exec .partnerTimeout s = .next t ∧ t.pair.halted = true ∧
      (s.pair.halted = false → t.flagOf 0 srcDegraded = true) ∧ t.groups = s.groups ∧
      (∀ Q ∈ s.jointQueues, (t.queue Q).halted = true ∧ (t.queue Q).solo = false) ∧
      ((∀ R, (s.queue R).ckptEntry = none) → ∀ Q ∈ s.jointQueues, (s.queue Q).halted = false →
        (t.queue Q).haltCode = Status.pairDegraded ∧ (t.queue Q).haltSeq = (s.queue Q).done ∧
        (t.queue Q).done = (s.queue Q).done ∧ (t.queue Q).committed = (s.queue Q).committed ∧
        t.flagOf (dieOfQ Q) (srcHalt Q) = true)) ∧
    (s.power.ready = true → s.coord.side = false → exec .takeover s = .next s) ∧
    (s.power.ready = true → s.coord.side = true → ∃ s1 : State,
      exec .takeover s = .next ((s1.groupsGo (s.groupsOf s.jointQueues)).keeping s) ∧ s1.pair.halted = false ∧ s1.groups = s.groups ∧
      ∀ Q ∈ s.jointQueues, (s1.queue Q).solo = true ∧ (s1.queue Q).done = (s.queue Q).done ∧
        (s1.queue Q).halted = ((s.queue Q).halted && !s.pairHalt Q)) ∧
    (∀ (part : FencedPart) (gs : List Nat), gs = s.groupsOf (s.jointQueues.filter (s.boundToPart part)) → ∃ s1 : State,
      exec (.partnerFenceNotice part) s = .next ((s1.groupsGo gs).keeping s) ∧
      (∀ Q ∈ s.jointQueues, groupOf s Q ∈ gs → (s1.queue Q).solo = true) ∧
      (∀ Q ∈ s.jointQueues, s.boundToPart part Q = true → (s1.queue Q).solo = true) ∧
      ∀ Q, groupOf s Q ∉ gs → s1.queue Q = s.queue Q)

/-! ### Serving steps (chapter 10) -/

/-- The records of a serving step (R233, R234, R237, R243, R245 to R247, R250, R251, R255). CLOSE, PAUSE, RESUME and ADVANCE
change the context of each entry of their list in the group's pending half, and no other context; OPEN makes a context of its
fields, with the prefix's chain and length; PUBLISH makes a live prefix of the context's whole blocks; PREFIX_RELEASE retires
it; an INSTALL makes a new generation current and the former one old, a RETIRE leaves none current. Committed halves stay. A
descriptor with bad fields ends with DESC_FIELD_RANGE, and one that is refused leaves every record as it was. -/
def Obligations.ServingRecords : Prop :=
  ∀ (d : DieId) (q : QId) (seq : BitVec 48) (s : State) (y : Desc) (x : SrvDesc) (w : Who) (c : Instr),
    Started s d q seq y → y.cls = 6 → x = srvOf y → w = s.whoOf (qnum d q) y →
    (∀ es, (c = .closeCtx d q seq ∧ x.op = 1) ∨ (c = .pauseCtx d q seq ∧ x.op = 2) ∨ (c = .resumeCtx d q seq ∧ x.op = 3) ∨
        (c = .advance d q seq ∧ x.op = 6) → BatchReady s d q w x es → (es.map BatchEntry.ctx).Nodup → ∃ s1 : State,
      exec c s = .next (s1.engineEnds d q seq Status.ok) ∧ s1 = { s with ctxs := s1.ctxs, hbmCond := s1.hbmCond } ∧
      (∀ e ∈ es, (s1.ctx (dkey d.val ctxPer e.ctx)).com = (s.ctx (dkey d.val ctxPer e.ctx)).com ∧
        (x.op = 1 → (s1.ctxSeen w e.ctx).state = 0 ∧ (s1.ctxSeen w e.ctx).pfx = none ∧ (s1.ctxSeen w e.ctx).adapter = none) ∧
        (x.op = 2 → s1.ctxSeen w e.ctx = { s.ctxSeen w e.ctx with state := 2 }) ∧
        (x.op = 3 → s1.ctxSeen w e.ctx = { s.ctxSeen w e.ctx with state := 1 }) ∧
        (x.op = 6 → s1.ctxSeen w e.ctx = { s.ctxSeen w e.ctx with len := e.newLen, wrEnd := e.newLen })) ∧
      ∀ k, (∀ e ∈ es, k ≠ dkey d.val ctxPer e.ctx) → s1.ctx k = s.ctx k) ∧
    (∀ (h : Halves Ctx) (ad : Option (Nat × Nat)) (pf : Option Nat) (n : Nat), c = .openCtx d q seq → x.op = 0 → ListReady s d q x 0 →
      s.tableOut w x = false →
      h = s.ctx (dkey d.val ctxPer x.ctx) → s.img.structKind = 1 → (h.seen w.g).state = 0 → h.foreign w.g = false →
      (s.kvPool d.val x.pool).usable d.val w.t = true → s.pin w x = some ad → s.openPrefix w x ad = some pf →
      n = (pf.map (fun i => (s.pfx (dkey d.val pfxPer i)).com.len)).getD 0 →
      (∀ i, pf = some i → RangeGood s w.t ((s.pfx (dkey d.val pfxPer i)).com.addr : Nat)
          (4 * (n / max 1 (s.kvPool d.val x.pool).tpb.toNat)) ∧
        RangeGood s w.t (x.addr : Nat) (4 * (n / max 1 (s.kvPool d.val x.pool).tpb.toNat))) → ∃ s1 : State,
      exec c s = .next (s1.engineEnds d q seq Status.ok) ∧
      s1 = { s with ctxs := s1.ctxs, hbm := s1.hbm, tags := s1.tags, hbmCond := s1.hbmCond } ∧
      s1.ctx (dkey d.val ctxPer x.ctx) = h.write w.g w.e
        { state := 1, tenant := w.t, group := w.g, cls := BitVec.ofNat 3 x.cls, turn := s.img.turnCount
          pool := BitVec.ofNat 3 x.pool, chainAddr := x.addr, maxLen := x.len, len := n, wrEnd := n, sharedLen := n
          pfx := pf, adapter := ad, statusAddr := x.statusAddr, statusHbm := x.statusHbm } ∧
      (∀ k, k ≠ dkey d.val ctxPer x.ctx → s1.ctx k = s.ctx k) ∧ (pf = none → s1.hbm = s.hbm ∧ s1.tags = s.tags) ∧
      (∀ i, pf = some i → s1.hbmBytes x.addr (4 * (n / max 1 (s.kvPool d.val x.pool).tpb.toNat)) =
        s.hbmBytes (s.pfx (dkey d.val pfxPer i)).com.addr (4 * (n / max 1 (s.kvPool d.val x.pool).tpb.toNat)))) ∧
    (∀ (k : Ctx) (p : Pool) (n i : Nat), c = .publish d q seq → x.op = 7 → ListReady s d q x 0 →
      s.tableOut w x = false → k = s.ctxSeen w x.ctx →
      p = s.kvPool d.val k.pool.toNat → n = x.len / max 1 p.tpb.toNat → s.img.structKind = 1 → k.state = 1 →
      s.ctxRefused w x.ctx false = false → p.usable d.val w.t = true → 1 ≤ n →
      n * p.tpb.toNat ≤ s.lenShared w x.ctx → s.handleTaken w x.handle = false → s.freePrefix w = some i →
      RangeGood s w.t (k.chainAddr : Nat) (4 * n) → RangeGood s w.t (x.addr : Nat) (4 * n) → ∃ s1 : State,
      exec c s = .next (s1.engineEnds d q seq Status.ok) ∧
      s1 = { s with ctxs := s1.ctxs, pfxs := s1.pfxs, hbm := s1.hbm, tags := s1.tags, hbmCond := s1.hbmCond } ∧
      s1.pfx (dkey d.val pfxPer i) = (s.pfx (dkey d.val pfxPer i)).write w.g w.e
        { state := 1, tenant := w.t, handle := x.handle, pool := k.pool, len := n * p.tpb.toNat, turn := k.turn
          adapter := k.adapter, parent := k.pfx, addr := x.addr } ∧
      s1.ctxSeen w x.ctx = { k with pfx := some i, sharedLen := n * p.tpb.toNat } ∧
      s1.hbmBytes x.addr (4 * n) = s.hbmBytes k.chainAddr (4 * n)) ∧
    (∀ i, c = .prefixRelease d q seq → x.op = 8 → ListReady s d q x 0 → s.img.structKind = 1 →
      pfxIds.find? (fun i => (s.pfxSeen w i).state == 1 && (s.pfxSeen w i).tenant == w.t && (s.pfxSeen w i).handle == x.handle) = some i →
      (s.pfx (dkey d.val pfxPer i)).foreign w.g = false → ∃ s1 : State,
      exec c s = .next (s1.engineEnds d q seq Status.ok) ∧ s1 = { s with pfxs := s1.pfxs } ∧
      s1.pfxSeen w i = { s.pfxSeen w i with state := 2 } ∧
      (s1.pfx (dkey d.val pfxPer i)).com = (s.pfx (dkey d.val pfxPer i)).com) ∧
    (∀ (a : Adapter) (bs : List Byte), a = (s.adapter x.slot).seen w.g → s.img.structKind = 1 → s.slotRefused w x.slot = false →
      a.old = none →
      (c = .adapterInstall d q seq → x.op = 9 → ListReady s d q x 64 → bs = s.hbmBytes x.addr 64 → installBad bs = false →
        ∃ s1 : State, exec c s = .next (s1.engineEnds d q seq Status.ok) ∧
        s1 = { s with adapters := s1.adapters, hbmCond := s1.hbmCond } ∧
        (s1.adapter x.slot).seen w.g = { a with
          tenant := some w.t, cur := some { num := if a.lastNum = 65535 then 1 else a.lastNum + 1, parts := installParts bs }
          old := a.cur, lastNum := if a.lastNum = 65535 then 1 else a.lastNum + 1 } ∧
        (s1.adapter x.slot).com = (s.adapter x.slot).com ∧ ∀ k, k ≠ x.slot → s1.adapter k = s.adapter k) ∧
      (c = .adapterRetire d q seq → x.op = 10 → ListReady s d q x 0 → a.cur.isSome = true → ∃ s1 : State,
        exec c s = .next (s1.engineEnds d q seq Status.ok) ∧ s1 = { s with adapters := s1.adapters } ∧
        (s1.adapter x.slot).seen w.g = { a with cur := none, old := a.cur, retiring := true } ∧
        (s1.adapter x.slot).com = (s.adapter x.slot).com ∧ ∀ k, k ≠ x.slot → s1.adapter k = s.adapter k)) ∧
    ((c, x.op) ∈ [(Instr.openCtx d q seq, 0), (.publish d q seq, 7), (.prefixRelease d q seq, 8), (.adapterRetire d q seq, 10)] →
      (x.bad d.val = true → exec c s = .next (s.engineEnds d q seq Status.descFieldRange)) ∧
      (x.bad d.val = false → s.tableOut w x = false → s.img.structKind ≠ 1 → exec c s = .next (s.engineEnds d q seq Status.illegalInState)))

/-- The rows of a serving step (R240 to R242, R252, R255), for a list of one entry: a GATHER brings the KV rows of its
positions, which the chain table locates, into the Vat; an APPEND writes them from the Vat, and in layer 0 raises WR_END; an
ADAPTER_FETCH brings bytes of the pinned generation's part of the die into the Vat. No other byte changes. -/
def Obligations.ServingRows : Prop :=
  ∀ (d : DieId) (q : QId) (seq : BitVec 48) (s : State) (y : Desc) (x : SrvDesc) (w : Who) (e : BatchEntry) (k : Ctx) (p : Pool)
    (bs : List Nat) (sp : Span), Started s d q seq y → y.cls = 6 → x = srvOf y → w = s.whoOf (qnum d q) y →
    BatchReady s d q w x [e] →
    k = s.ctxSeen w e.ctx → p = s.kvPool d.val k.pool.toNat → sp = x.span p.tokenBytes.toNat e → RowsOpen s d q sp →
    (x.op = 4 → e.ntok ≤ x.budget → ChainGood s d q x k p e bs → ∃ s1 : State,
      exec (.gather d q seq) s = .next (s1.engineEnds d q seq Status.ok) ∧
      s1 = { s with vat := s1.vat, vatCond := s1.vatCond, hbmCond := s1.hbmCond } ∧
      (∀ i, i < e.ntok → s1.vatBytes d.val (x.vat + (e.vrow + i) * (x.rowStride * 64)) p.tokenBytes.toNat =
        s.hbmBytes (rowAt x p e bs (e.pos + i)) p.tokenBytes.toNat) ∧
      ∀ b, b < vkey d.val sp.base ∨ vkey d.val sp.stop ≤ b → s1.vatByte b = s.vatByte b) ∧
    (x.op = 5 → e.ntok ≤ x.budget → e.pos + e.ntok ≤ 2097152 → ChainGood s d q x k p e bs → ∃ s1 : State,
      exec (.append d q seq) s = .next (s1.engineEnds d q seq Status.ok) ∧
      s1 = { s with hbm := s1.hbm, tags := s1.tags, hbmCond := s1.hbmCond, ctxs := s1.ctxs } ∧
      (∀ i, i < e.ntok → s1.hbmBytes (rowAt x p e bs (e.pos + i)) p.tokenBytes.toNat =
        s.vatBytes d.val (x.vat + (e.vrow + i) * (x.rowStride * 64)) p.tokenBytes.toNat) ∧
      (∀ b, (∀ i, i < e.ntok → b < rowAt x p e bs (e.pos + i) ∨ rowAt x p e bs (e.pos + i) + p.tokenBytes.toNat ≤ b) →
        s1.hbmByte b = s.hbmByte b) ∧
      s1.ctxSeen w e.ctx = (if x.layer = 0 then { k with wrEnd := e.pos + e.ntok } else k) ∧
      (s1.ctx (dkey d.val ctxPer e.ctx)).com = (s.ctx (dkey d.val ctxPer e.ctx)).com) ∧
    (∀ (g : Gen) (a : Nat), x.op = 11 → s.pinned k = some g → a = (g.part d.val).1 + e.offset → RangeGood s w.t (a : Nat) e.bytes →
      ∃ s1 : State, exec (.adapterFetch d q seq) s = .next (s1.engineEnds d q seq Status.ok) ∧
      s1 = { s with vat := s1.vat, vatCond := s1.vatCond, hbmCond := s1.hbmCond } ∧
      s1.vatBytes d.val sp.base e.bytes = s.hbmBytes a e.bytes ∧
      ∀ b, b < vkey d.val sp.base ∨ vkey d.val sp.stop ≤ b → s1.vatByte b = s.vatByte b)

/-! ### Learning steps, collectives, checkpoints (chapters 11 to 13) -/

/-- Stream-control descriptors (R264 to R271). One that passes its checks writes the pending halves of the slots it names, or
of the die's learning record: SET_KEY keys slots at a zero counter, BEGIN_MB derives their step and microbatch from the data
position and moves the position on by SPM, SET_LAYER and SET_COUNTER write their fields, SET_DATA writes the position.
Committed halves and every other slot stay. The checks of R271 end a descriptor with their codes, in order. -/
def Obligations.StreamControl : Prop :=
  ∀ (d : DieId) (q : QId) (seq : BitVec 48) (s : State) (y : Desc) (x : StreamDesc) (w : Who) (l : Learn) (c : Instr),
    Started s d q seq y → y.cls = 9 → x = streamOf y → w = s.whoOf (qnum d q) y → l = s.learnSeen d.val w.g →
    ((c = .setKey d q seq ∧ (x.op = 0 ∨ 5 ≤ x.op)) ∨ (c = .setData d q seq ∧ x.op = 1) ∨ (c = .beginMb d q seq ∧ x.op = 2) ∨
      (c = .setLayer d q seq ∧ x.op = 3) ∨ (c = .setCounter d q seq ∧ x.op = 4)) →
    (x.bad = true → exec c s = .next (s.engineEnds d q seq Status.descFieldRange)) ∧
    (x.bad = false → x.op = 2 → 2097152 < x.seqStart + x.seqLen → exec c s = .next (s.engineEnds d q seq Status.seqLimit)) ∧
    (x.bad = false → (x.op = 2 → x.seqStart + x.seqLen ≤ 2097152) → s.streamIllegal d.val w.g w.t x = true →
      exec c s = .next (s.engineEnds d q seq Status.illegalInState)) ∧
    (x.bad = false → (x.op = 2 → x.seqStart + x.seqLen ≤ 2097152) → s.streamIllegal d.val w.g w.t x = false → ∃ s1 : State,
      exec c s = .next (s1.engineEnds d q seq Status.ok) ∧ s1 = { s with streams := s1.streams, dies := s1.dies } ∧
      (∀ e, e ≠ d.val → s1.die e = s.die e) ∧ s1.die d.val = { s.die d.val with learn := (s1.die d.val).learn } ∧
      (s1.die d.val).learn.com = (s.die d.val).learn.com ∧ (∀ k, (s1.stream k).com = (s.stream k).com) ∧
      (∀ k, (∀ i, i < x.count → k ≠ dkey d.val 2048 (x.slot + i)) → s1.stream k = s.stream k) ∧
      (x.op = 1 → s1.learnSeen d.val w.g =
        { pos := x.w20, sps := BitVec.ofNat 32 x.sps, spm := BitVec.ofNat 32 x.spm, valid := true }) ∧
      (x.op = 2 → s1.learnSeen d.val w.g = { l with pos := l.pos + BitVec.ofNat 64 l.spm.toNat }) ∧
      (x.op ≠ 1 → x.op ≠ 2 → (s1.die d.val).learn = (s.die d.val).learn) ∧
      ∀ i (a b : Stream), i < x.count → a = (s.stream (dkey d.val 2048 (x.slot + i))).seen w.g →
        b = (s1.stream (dkey d.val 2048 (x.slot + i))).seen w.g →
        (x.op = 0 → b = { key := BitVec.ofNat 128 (x.w28.toNat * 2 ^ 64 + x.w20.toNat), purpose := BitVec.ofNat 16 x.purpose
                          tenant := w.t, keyed := true }) ∧
        (x.op = 2 → b = { a with step := BitVec.ofNat 32 (l.pos.toNat / l.sps.toNat), layer := 0, tenant := w.t, bound := true
                                 microbatch := BitVec.ofNat 16 (l.pos.toNat % l.sps.toNat / l.spm.toNat) }) ∧
        (x.op = 3 → b = { a with layer := BitVec.ofNat 16 x.layer, tenant := w.t }) ∧
        (x.op = 4 → b = { a with step := BitVec.ofNat 32 (fld x.w20 63 32), microbatch := BitVec.ofNat 16 (fld x.w20 31 16)
                                 layer := BitVec.ofNat 16 x.layer, tenant := w.t, bound := false }))

/-- Collective descriptors (R297 to R299, R302 to R306). One that passes its checks enters its bucket with the values it read
from SRC; it waits there while a member die is missing. When the last member posts on a package that makes up the whole job,
the results have formed at once: for a REDUCESCATTER and an ALLREDUCE the Vat destination holds the conversions of the die
tree's sums, for a PROBE the run code is known. The bucket that is next completes on a die: its entry ends, NEXT_BUCKET moves
on, and its job's source is raised. A job reset sets RUN, clears LOST and takes out the die's entries, and does nothing while an entry
of the job runs. -/
def Obligations.Collectives : Prop :=
  (∀ (d : DieId) (q : QId) (seq : BitVec 48) (s : State) (x : Desc) (pl : Plan) (K Q n : Nat) (xs : List Span) (vs : List (BitVec 32))
      (ne : BucketEntry) (c : Instr), Started s d q seq x → x.cls = 7 → pl = planOf x → K = bucketKey pl.job pl.bucket → Q = qnum d q →
    ((c = .reduceScatter d q seq ∧ (x.op = 0 ∨ 4 ≤ x.op)) ∨ (c = .allreduce d q seq ∧ x.op = 1) ∨
      (c = .allgather d q seq ∧ x.op = 2) ∨ (c = .probe d q seq ∧ x.op = 3)) → s.posted K Q seq.toNat = false →
    (collBad pl s.coord d.val x = true → exec c s = .next (s.engineEnds d q seq Status.descFieldRange)) ∧
    (collBad pl s.coord d.val x = false → s.collIllegal d.val Q pl = true →
      exec c s = .next (s.engineEnds d q seq Status.illegalInState)) ∧
    (collBad pl s.coord d.val x = false → s.collIllegal d.val Q pl = false →
      64 ≤ bucketAhead ((s.job (dkey d.val 4096 pl.job)).seen (groupOf s Q)).nextBucket.toNat pl.bucket → exec c s = .next s) ∧
    (collBad pl s.coord d.val x = false → s.collIllegal d.val Q pl = false →
      bucketAhead ((s.job (dkey d.val 4096 pl.job)).seen (groupOf s Q)).nextBucket.toNat pl.bucket < 64 →
      xs = srcSpan pl s.coord d.val x ++ dstSpan pl s.coord d.val x → s.collCurd d.val Q xs (stageSpan x) = none →
      s.spanFenced d.val (xs ++ stageSpan x) = false → VatSound s d.val xs → n = pl.srcBytes s.coord d.val →
      (pl.srcVat = false → RangeGood s (s.ownerOf Q) (x.w20.toNat : Nat) n) →
      vs = pl.contribution (pl.srcElems s.coord d.val)
        (if pl.srcVat then s.vatBytes d.val x.w20.toNat n else s.hbmBytes x.w20.toNat n) →
      ne = { die := d, queue := Q, seq := seq.toNat, desc := x, src := vs, formed := none } →
      ((∃ e, e ∈ pl.dies ∧ e ≠ d.val ∧ s.bucketStarted K e = false) → ∃ t, exec c s = .next t ∧
        t = { s with buckets := t.buckets, hbmCond := t.hbmCond } ∧
        t.bucket K = { s.bucket K with entries := (s.bucket K).entries ++ [ne] } ∧ ∀ L, L ≠ K → t.bucket L = s.bucket L) ∧
      (∀ b : Bucket, (∀ e ∈ pl.dies, e = d.val ∨ s.bucketStarted K e = true) → pl.stages s.coord = [] → pl.ring = false → x.op ≠ 2 →
        (s.bucket K).formed = false → (s.bucket K).ready = false → (s.bucket K).inbox = [] →
        (∀ e ∈ pl.dies, ∀ f ∈ pl.dies, s.crosses e f = true) → b = { s.bucket K with entries := (s.bucket K).entries ++ [ne] } →
        ∃ t, exec c s = .next t ∧
        t = { s with buckets := t.buckets, hbm := t.hbm, tags := t.tags, hbmCond := t.hbmCond, vat := t.vat
                     vatCond := t.vatCond, dies := t.dies, srcs := t.srcs, jobPlain := t.jobPlain } ∧
        (t.bucket K).formed = true ∧ (x.op = 3 → (t.bucket K).code.toNat =
          runCode (b.entries.foldl (fun a e => a ++ e.src) [])) ∧
        (pl.dstVat = true ∨ x.op = 3 → ∃ be ∈ (t.bucket K).entries, be = { ne with formed := some Status.ok }) ∧
        (∀ vals : List Nat, pl.dstVat = true → x.op ≠ 3 → vals = (elemsOf (if x.op = 0 then pl.dieRange s.coord d.val else (0, pl.count))).map
            (fun i => (BitVec.ofNat 32 (convertVal pl.dst 0 pl.conv.sat false 0 (f32Val (b.dieTree i))).1).toNat) →
          t.vatBytes d.val (x.w28.toNat % 2 ^ 26) (packElems pl.dst vals).length = packElems pl.dst vals)))) ∧
  (∀ (d : DieId) (j : BitVec 12) (s : State) (K : Nat) (e : BucketEntry), K = bucketKey j.toNat (s.jobNow d.val j.toNat).nextBucket.toNat →
    (s.formedEntry K d.val = none → exec (.bucketComplete d j) s = .next s) ∧
    (s.formedEntry K d.val = some (e, Status.ok) → ∃ t, exec (.bucketComplete d j) s = .next t ∧
      t = { s with queues := t.queues, buckets := t.buckets, jobs := t.jobs, srcs := t.srcs } ∧
      t.queue e.queue = (s.queue e.queue).setStat e.seq (.ended Status.ok) ∧ t.flagOf d.val (srcJob j.toNat) = true ∧
      (t.job (dkey d.val 4096 j.toNat)).com = (s.job (dkey d.val 4096 j.toNat)).com ∧
      ((t.job (dkey d.val 4096 j.toNat)).seen (groupOf s e.queue)).nextBucket =
        ((s.job (dkey d.val 4096 j.toNat)).seen (groupOf s e.queue)).nextBucket + 1 ∧
      ∀ k, k ≠ dkey d.val 4096 j.toNat → t.job k = s.job k)) ∧
  (∀ (d : DieId) (v : Word) (s : State), s.power.ready = true →
    (bitAt v 12 = true → s.jobRuns d.val (fld v 11 0) = false → ∃ t, exec (.jobGo d v) s = .next t ∧
      t = { s with buckets := t.buckets, jobs := t.jobs, jobPlain := t.jobPlain } ∧
      (t.job (dkey d.val 4096 (fld v 11 0))).com = { (s.job (dkey d.val 4096 (fld v 11 0))).com with run := BitVec.ofNat 8 (fld v 20 13) } ∧
      (t.jobFlags (dkey d.val 4096 (fld v 11 0))).lost = false ∧
      (∀ k, k ≠ dkey d.val 4096 (fld v 11 0) → t.job k = s.job k ∧ t.jobFlags k = s.jobFlags k) ∧
      (∀ L, L / 2 ^ 24 ≠ fld v 11 0 → t.bucket L = s.bucket L) ∧
      ∀ L, (t.bucket L).entries = if L / 2 ^ 24 = fld v 11 0 then (s.bucket L).entries.filter (fun e => e.die != d)
        else (s.bucket L).entries) ∧
    (bitAt v 12 = false ∨ s.jobRuns d.val (fld v 11 0) = true → exec (.jobGo d v) s = .next s))

/-- Checkpoint descriptors of a group of one queue (R314 to R328). A SNAPSHOT that passes its checks begins the Hold and
writes its slot; HOLD_END seals the die's slot with the group's step, and the last one completes the entry; without a Hold
it does nothing. A RESTORE leaves the
learning record, streams and jobs pending and the restore to its commit. A DRAIN of a joint queue sends the pages of its sealed slot to
the partner; one
of a queue that is not paired is refused. A COMPARE of a die's curds and banks counts and reports the checksums that differ
from the partner's. A slot register is written only while its slot is empty or sealed, and the slot is then empty. -/
def Obligations.Checkpoints : Prop :=
  (∀ (d : DieId) (q : QId) (seq : BitVec 48) (s : State) (Q g : Nat) (e : Entry) (rest : List Entry) (c : CkptDesc) (t : Nat),
    Q = qnum d q → g = groupOf s Q → members s g = [Q] → s.power.hbmOff = false → (s.queue Q).entry seq.toNat = some e →
    (s.queue Q).ckptEntry = some e → (s.queue Q).entries = e :: rest → e.seq = (s.queue Q).done + 1 →
    (∀ y ∈ rest, e.seq < y.seq ∧ (y.stat = .fetched ∨ y.stat = .started)) → c = ckptOf e.desc → c.bad d.val = false →
    t = s.ownerOf Q →
    (∀ (es : List ListEnt) (k : CkptSlot), s.joint Q = false → c.op = 0 →
      es = (List.range c.count).map (listEnt (s.hbmBytes c.list (16 * c.count))) → RangeGood s t (c.list : Nat) (16 * c.count) →
      k = s.ckpt (slotKey d.val c.slot) → s.img.structKind = 2 →
      ((∀ i : DieId, s.holdOf g i.val = none) → 1 < e.seq → (∀ y ∈ es, s.listEntBad d.val false y = false) →
        listClash es = false → es.foldl (fun a y => a + y.bytes) 0 ≤ 160 * 2 ^ 30 → s.snapPages d.val t g es ≤ k.pages.toNat →
        (s.group (gkey d.val g)).kind = 2 → (s.group (gkey d.val g)).replay = false → k.state = 0 ∨ k.state = 2 →
        (s.queue Q).committed + 1 = e.seq → ∃ u, exec (.snapshot d q seq) s = .next u ∧
        u = { s with ckpts := u.ckpts, dies := u.dies, hbmCond := u.hbmCond } ∧
        u.ckpt (slotKey d.val c.slot) = { k with state := 1, step := 0, group := g } ∧
        u.die d.val = { s.die d.val with
          holds := (s.die d.val).holds ++ [{ group := g, slot := c.slot, start := s.time.now, sealed := false }] }) ∧
      (s.unsealed g d.val = true → (∀ y ∈ es, RangeGood s t (y.addr : Nat) y.bytes) →
        RangeGood s t (s.slotAddr d.val c.slot : Nat) (4096 * s.snapPages d.val t g es) → RangeGood s t (c.result : Nat) 64 →
        ∃ u, exec (.holdEnd d q) s = .next u ∧ (u.ckpt (slotKey d.val c.slot)).state = 2 ∧
        (u.ckpt (slotKey d.val c.slot)).step = (s.group (gkey d.val g)).tag ∧ s.unsealed g d.val ≠ u.unsealed g d.val ∧
        u.flagOf d.val srcSealed = true ∧ u.groups = s.groups ∧
        ((∀ i : DieId, i ≠ d → s.unsealed g i.val = false) → u.holdOf g d.val = none ∧ (u.queue Q).done = e.seq ∧
          (u.queue Q).entries = rest) ∧
        ((∃ i : DieId, i ≠ d ∧ s.unsealed g i.val = true) → u.queues = s.queues)) ∧
      (s.unsealed g d.val = false → exec (.holdEnd d q) s = .next s)) ∧
    (∀ (sn : Snap) (p : Party) (s0 s1 : State), s.joint Q = false → (s.queue Q).paired = false → c.op = 1 →
      p = { g := g, t := t, paired := false, joint := false, dies := [(d.val, c)] } → s.readSnap p d.val c = (s0, .ok sn) →
      s0.restoreIllegal p [sn] [] = false → (c.realign = true ∨ ∀ y ∈ sn.streams t, sn.skewed y.2 = false) →
      s0.restoreDie p (c.cold || !hdrHistSaved sn.hdr) sn = (s1, none) →
      exec (.restore d q seq) s = .next ((s1.closeCkpt g Status.ok).keeping s) ∧
      s1.learnSeen d.val g = { pos := BitVec.ofNat 64 sn.pos, sps := BitVec.ofNat 32 sn.sps, spm := BitVec.ofNat 32 sn.spm
                               valid := hdrLearnValid sn.hdr } ∧
      (s1.die d.val).learn.com = (s.die d.val).learn.com ∧ s1.groups = s.groups ∧ s1.queues = s.queues ∧
      ∃ r, (s1.die d.val).restoring = some r ∧ r.group = g ∧ r.step = sn.step ∧ r.dataPos = BitVec.ofNat 64 sn.pos ∧
        r.verified = false) ∧
    (∀ k : CkptSlot, c.op = 2 → s.joint Q = true → SMap.get 0 s.pair.start Q = e.seq → k = s.ckpt (slotKey d.val c.slot) → k.state = 2 →
      RangeGood s t (s.slotAddr d.val c.slot : Nat) (4096 * max 1 k.pages.toNat) →
      ∃ u, exec (.drain d q seq) s = .next u ∧ u = { s with ckpts := u.ckpts, ports := u.ports, free := u.free } ∧
      u.ckpt (slotKey d.val c.slot) = { k with state := 3, group := g } ∧
      ∀ m, s.portOfRole 7 = some m → (s.port m).state = .up → (s.die (m / 2)).fenced = false →
        (u.port m).waiting.flatMap (fun x => x.2.payload) = (s.port m).waiting.flatMap (fun x => x.2.payload) ++
          s.hbmBytes (s.slotAddr d.val c.slot)
            (4096 * max 1 (min (numAt (s.hbmBytes (s.slotAddr d.val c.slot) 4096) 0x54 4) k.pages.toNat))) ∧
    (c.op = 2 → (s.queue Q).paired = false → s.slotState d.val c.slot ≠ 3 → ∃ u, exec (.drain d q seq) s = .next u ∧
      (u.queue Q).halted = true ∧ (u.queue Q).haltCode = Status.illegalInState ∧ (u.queue Q).haltSeq = e.seq) ∧
    (∀ mine theirs : List Word, c.op = 3 → c.scope = 2 → s.joint Q = true → SMap.get 0 s.pair.start Q = e.seq →
      SMap.get none s.pair.crcs d.val = some theirs → (∀ k ∈ c.bankKeys d.val, (s.bank k).held = true) →
      vatCheck (s.groupOwns d.val (s.bind Q).group) noCurds c.span = none → s.fencedAt d.val c.half = false →
      s.spanFenced d.val c.span = false → VatSound s d.val c.span → RangeGood s t (c.result : Nat) 64 →
      mine = (List.range c.curds).map (fun i => crc64 (s.vatBytes d.val (c.vat + i * 65536) 65536)) ++
        (c.bankKeys d.val).map (fun k => crc64 (s.bankBytes k)) →
      ∃ s1 : State, exec (.compare d q seq) s = .next ((s1.closeCkpt g Status.ok).keeping s) ∧
        s1 = { s with dies := s1.dies, srcs := s1.srcs, ports := s1.ports, free := s1.free, hbm := s1.hbm, tags := s1.tags
                      hbmCond := s1.hbmCond } ∧
        (s1.die d.val).mismatchCount = ctrAdd (s.die d.val).mismatchCount (crcDiffs mine theirs).length ∧
        (crcDiffs mine theirs ≠ [] → s1.flagOf d.val srcMismatch = true) ∧ (crcDiffs mine theirs = [] → s1.srcs = s.srcs) ∧
        s1.hbmBytes c.result 64 = ({ items := mine.length, mismatches := (crcDiffs mine theirs).length
                                     first := (crcDiffs mine theirs).head?, step := 0, cold := false, partnerSealed := false
                                     verified := false } : Outcome).record s.time.now)) ∧
  (∀ (d : DieId) (k : Fin 3) (v : Word) (s : State), s.power.ready = true → ∃ t, exec (.ckptSlotWrite d k v) s = .next t ∧
    t = { s with ckpts := t.ckpts } ∧ (∀ i, i ≠ slotKey d.val k.val → t.ckpt i = s.ckpt i) ∧
    t.ckpt (slotKey d.val k.val) =
      if (s.ckpt (slotKey d.val k.val)).state = 0 ∨ (s.ckpt (slotKey d.val k.val)).state = 2 then
        { base := BitVec.ofNat 30 (fld v 63 34), pages := BitVec.ofNat 30 (fld v 33 4) }
      else s.ckpt (slotKey d.val k.val))

/-! ### Security (chapter 14) -/

/-- Tenants and keys (R346 to R352). A descriptor that a check of R348 refuses ends with its code and no other effect. CREATE
makes the tenant active with keys at epoch 0. ROTATE gives it keys at the next epoch beside the newest, and every die in
service a sweep. REMOVE of a tenant without work in flight leaves it absent, with nothing of it on the device; one with work
in flight waits with the tenant removing, and the end of its drain removes it. IMPORT and EXPORT move pages in order, up to the
first record that fails. Key work that takes too long ends with BUSY and no effect but, for a REMOVE, that it resumes at step 3. -/
def Obligations.Tenants : Prop :=
  (∀ (d : DieId) (q : QId) (seq : BitVec 48) (s : State) (y : Desc) (k : KeyDesc) (n Q : Nat) (x : Tenant), Started s d q seq y →
    y.cls = 10 → keyDescOf y = k → k.tenant = n → Q = qnum d q → s.tenant n = x →
    (∀ c : Instr, (c = .create d q seq ∧ k.op = 0) ∨ (c = .rotate d q seq ∧ k.op = 1) ∨ (c = .remove d q seq ∧ k.op = 2) ∨
        (c = .importPages d q seq ∧ k.op = 3) ∨ (c = .exportPages d q seq ∧ k.op = 4) →
      (k.bad d.val = true → exec c s = .next (s.engineEnds d q seq Status.descFieldRange)) ∧
      (k.bad d.val = false → s.keyIllegal Q seq.toNat k = true → exec c s = .next (s.engineEnds d q seq Status.illegalInState)) ∧
      (k.bad d.val = false → s.keyIllegal Q seq.toNat k = false → s.keySweepBusy k = true →
        exec c s = .next (s.engineEnds d q seq Status.keySweepBusy))) ∧
    (s.keyCheck d.val Q seq.toNat k = none →
      (k.op = 0 → ∃ s1 : State, exec (.create d q seq) s = .next (s1.engineEnds d q seq Status.ok) ∧
        s1 = { s with sec := s1.sec, dies := s1.dies, srcs := s1.srcs, free := s1.free } ∧ s.sec.sameButTenants s1.sec ∧
        (∀ m, m ≠ n → s1.tenant m = s.tenant m) ∧
        (∃ keys, s1.tenant n = { state := .active, slot0 := some (KeySlot.fresh 0 keys) }) ∧
        Posted s s1 s.primary 0x0012 Status.ok n) ∧
      (k.op = 1 → ∃ s1 : State, exec (.rotate d q seq) s = .next (s1.engineEnds d q seq Status.ok) ∧
        s1 = { s with sec := s1.sec, tags := s1.tags, dies := s1.dies, srcs := s1.srcs, free := s1.free } ∧
        s.sec.sameButTenants s1.sec ∧ (∀ m, m ≠ n → s1.tenant m = s.tenant m) ∧
        (s1.tenant n).newest = x.newest + 1 ∧ (s1.tenant n).hasKey (x.newest + 1) = true ∧
        (s1.tenant n).keyFor x.newest = x.keyFor x.newest ∧ (s1.tenant n).older = x.newest ∧ (s1.tenant n).olderValid = true ∧
        (s1.tenant n).sweep = true ∧ (s1.tenant n).sweepFailed = false ∧
        (∀ e : DieId, (s1.tenant n).sweeping.getLsbD e.val = !(s.die e.val).fenced) ∧
        (∀ e : DieId, (s.die e.val).fenced = false → (s1.die e.val).sweepActive = true) ∧
        Posted s s1 s.primary 0x0012 Status.ok ((x.newest + 1).toNat * 2 ^ 16 + 1 * 2 ^ 8 + n)) ∧
      (k.op = 2 → s.tenantBusy n = false → ∃ s1 : State, exec (.remove d q seq) s = .next ((s1.engineEnds d q seq Status.ok).keeping s) ∧
        s1.tenant n = {} ∧ (∀ m, m ≠ n → s1.tenant m = s.tenant m) ∧ s1.flagOf 0 srcTenantRemoved = true ∧
        (∀ p, (s1.tag p).assigned = (s.tag p).assigned ∧ (s1.tag p).owner = (s.tag p).owner) ∧
        (∀ (e : DieId) (c : Nat), c < 640 → (s.curdOwner e.val c).any (fun o => o.tenant == n) = true →
          ∀ a, a < 65536 → s1.vatByte (vkey e.val (c * 65536 + a)) = 0) ∧
        (∀ b, (s.bank b).tag.any (fun g => g.1 == n) = true →
          s1.bank b = {} ∧ ∀ r i, r < 1024 → i < 512 → s1.accEntry (akey b r i) = 0) ∧
        (∀ i, (s1.chain i).tag ≠ some n ∧ (s1.ctx i).com.tenant ≠ n ∧ (s1.pfx i).com.tenant ≠ n ∧
          (s1.adapter i).com.tenant ≠ some n ∧ (s1.job i).com.tenant ≠ n) ∧
        (∀ i, ((s1.pbank i).tenant.toNat = n → (s1.pbank i).valid = false) ∧
          ((s1.pool i).tenant.toNat = n → (s1.pool i).valid = false)) ∧
        (∀ R, (s.queue R).owner = n → (s1.queue R).enable = false ∨ (s1.queue R).disableWaiting = true)) ∧
      (k.op = 2 → x.state = .active → x.removeFrom ≠ 3 → (s.beginRemove Q seq.toNat n).tenantBusy n = true → ∃ t,
        exec (.remove d q seq) s = .next t ∧
        t.tenant n = { x with state := .removing, remover := some (Q, seq.toNat), removeFrom := (t.tenant n).removeFrom } ∧
        (∀ m, m ≠ n → t.tenant m = s.tenant m) ∧ t.vat = s.vat ∧
        ∀ p, (t.tag p).assigned = (s.tag p).assigned ∧ (t.tag p).owner = (s.tag p).owner ∧ (t.tag p).cls = (s.tag p).cls) ∧
      (∀ key, k.op = 3 ∨ k.op = 4 → s.transportFor Q seq.toNat = some key →
        (∀ i, i < k.pages → MovesPage s (s.ownerOf Q) k i) →
        (k.op = 3 → (s.tenant (s.ownerOf Q)).hasKey (s.tenant (s.ownerOf Q)).newest = true →
            (∀ i, i < k.pages → (s.tenant (s.ownerOf Q)).hasKey (s.tag (pageOf k.hbm + i)).epoch = true) →
          ∃ s1 : State, exec (.importPages d q seq) s = .next (s1.engineEnds d q seq
              (if s.recordsGood (s.ownerOf Q) key k k.pages then Status.ok else Status.pageIntegrityFail)) ∧
            s1 = { s with hbm := s1.hbm, tags := s1.tags, hbmCond := s1.hbmCond } ∧
            (∀ i bs, i < k.pages → s.recordsGood (s.ownerOf Q) key k i = true →
              k.openRecord key i (s.hostBytes (s.ownerOf Q) (k.host + 4160 * i) 4160) = some bs →
              s1.hbmBytes ((pageOf k.hbm + i) * 4096) 4096 = bs ∧
              (s1.tag (pageOf k.hbm + i)).epoch = (s.tenant (s.ownerOf Q)).newest ∧
              s1.macFits (pageOf k.hbm + i) = true) ∧
            (∀ a, pageOf a < pageOf k.hbm ∨ pageOf k.hbm + k.pages ≤ pageOf a → s1.hbmByte a = s.hbmByte a)) ∧
        (k.op = 4 → (∀ i p, i < k.pages → p = pageOf k.hbm + i →
            (s.tenant (s.ownerOf Q)).hasKey (s.tag p).epoch = true ∧ s.macFits p = true ∧ (s.tag p).poison = false ∧
            s.badWords p .correctable = [] ∧ s.badWords p .uncorrectable = []) →
          ∃ s1 : State, exec (.exportPages d q seq) s = .next (s1.engineEnds d q seq Status.ok) ∧
            s1 = { s with host := s1.host, sec := s1.sec, hbmCond := s1.hbmCond } ∧ s.sec.sameButTenants s1.sec ∧
            s1.tenant (s.ownerOf Q) = { s.tenant (s.ownerOf Q) with exportCtr := (s.tenant (s.ownerOf Q)).exportCtr + 1 } ∧
            (∀ m, m ≠ s.ownerOf Q → s1.tenant m = s.tenant m) ∧
            (∀ i, i < k.pages → s1.hostBytes (s.ownerOf Q) (k.host + 4160 * i) 4160 =
              k.sealRecord key (s.tenant (s.ownerOf Q)).exportCtr i (s.hbmBytes ((pageOf k.hbm + i) * 4096) 4096)) ∧
            (∀ a, a < hkey (s.ownerOf Q) k.host ∨ hkey (s.ownerOf Q) k.host + 4160 * k.pages ≤ a →
              s1.hostByte a = s.hostByte a))) ∧
      (k.op = 0 ∨ k.op = 1 → ∃ s1 : State, exec (.keyWorkTimeout d q seq) s = .next (s1.engineEnds d q seq Status.busy) ∧
        s1 = { s with sec := s1.sec, srcs := s1.srcs } ∧
        s1.sec = { s.sec with keyBusyCount := s.sec.keyBusyCount + 1 } ∧ s1.flagOf 0 srcKeyBusy = true) ∧
      (k.op = 2 → x.state = .removing → s.tenantBusy n = false → ∃ s1 : State,
        exec (.keyWorkTimeout d q seq) s = .next (s1.engineEnds d q seq Status.busy) ∧ s1 = { s with sec := s1.sec, srcs := s1.srcs } ∧
        s1.sec.keyBusyCount = s.sec.keyBusyCount + 1 ∧ s1.tenant n = { x with removeFrom := 3, remover := none } ∧
        (∀ m, m ≠ n → s1.tenant m = s.tenant m) ∧ s1.flagOf 0 srcKeyBusy = true))) ∧
  (∀ (n : Fn) (s : State) (Q seq : Nat), (s.tenant n.val).state = .removing → (s.tenant n.val).remover = some (Q, seq) →
    s.removerRuns (s.tenant n.val) = true → s.power.hbmOff = false → ∃ s1 : State,
    exec (.removeDrainExpiry n) s = .next ((s1.endEntry Q seq Status.ok).keeping s) ∧ s1.tenant n.val = {} ∧
    (∀ m, m ≠ n.val → s1.tenant m = s.tenant m) ∧ s1.flagOf 0 srcTenantRemoved = true)

/-- Firmware update and image-signing key slots (R336, R337). An UPDATE of a LENGTH out of range ends at once; otherwise it takes
the image from host memory, and its end sets DONE and the code. An image that fails its check, or is below the floor, writes
nothing; one that passes stands in both flash copies of every die, and the floor is its SVN; a flash that fails leaves the
copies of the other letter sound: copy A of every die untouched while B is written, copy B good while A is. ENROLL and REVOKE start an
operation, whose end stores the key in an empty slot where its point lies on the curve and no tenant exists, or marks the slot
revoked, in the stores of all unfenced dies (R338). No slot but the operation's changes. -/
def Obligations.FirmwareAndKeys : Prop :=
  (∀ (v : Word) (s : State), s.power.ready = true →
    (s.sec.fwBusy = false → s.sec.fwLen = 0 ∨ 2 ^ 25 < s.sec.fwLen.toNat → ∃ t, exec (.update v) s = .next t ∧
      t = { s with sec := t.sec, srcs := t.srcs } ∧
      t.sec = { s.sec with fwAddr := v &&& ~~~0x3F#64, fwCode := Status.bootFwAuthFail, fwSource := [] } ∧
      t.flagOf 0 srcFwDone = true) ∧
    (s.sec.fwBusy = false → s.sec.fwLen ≠ 0 → s.sec.fwLen.toNat ≤ 2 ^ 25 → ∃ t, exec (.update v) s = .next t ∧
      t = { s with sec := t.sec } ∧ t.sec = { s.sec with
        fwAddr := v &&& ~~~0x3F#64, fwBusy := true, fwCode := 0
        fwSource := s.hostBytes 0 (v &&& ~~~0x3F#64).toNat s.sec.fwLen.toNat }) ∧
    (s.sec.fwBusy = true → exec (.update v) s = .next { s with sec := { s.sec with fwAddr := v &&& ~~~0x3F#64 } }) ∧
    (s.sec.keyOp = .none → bitAt v 1 = false → exec (.enroll v) s = .next { s with sec := { s.sec with
      keyAddr := v &&& ~~~0x3F#64, keySlot := BitVec.ofNat 3 (fld v 4 2), keyCode := 0
      keyOp := .enroll (BitVec.ofNat 3 (fld v 4 2)) (v &&& ~~~0x3F#64) } }) ∧
    (s.sec.keyOp = .none → exec (.revoke v) s = .next { s with sec := { s.sec with
      keyAddr := v &&& ~~~0x3F#64, keySlot := BitVec.ofNat 3 (fld v 4 2), keyCode := 0
      keyOp := .revoke (BitVec.ofNat 3 (fld v 4 2)) } })) ∧
  (∀ (r : FlashResult) (s : State), (s.sec.fwBusy = false → exec (.firmwareUpdateDone r) s = .next s) ∧
    (s.sec.fwBusy = true → ∃ t, exec (.firmwareUpdateDone r) s = .next t ∧
      t = { s with sec := t.sec, srcs := t.srcs, store := t.store, stores := t.stores, flash := t.flash, free := t.free } ∧
      t.sec = { s.sec with fwCode := t.sec.fwCode, fwBusy := false, fwSource := [] } ∧
      t.store = { s.store with fwFloor := t.store.fwFloor } ∧ t.flagOf 0 srcFwDone = true ∧
      (∀ k, 2 ≤ k % 4 → t.flashOf k = s.flashOf k) ∧
      if (Config.firmwareSvn s.sec.fwSource).any (fun v => decide (s.store.fwFloor.val ≤ v)) then
        match r with
        | .ok => t.sec.fwCode = Status.ok ∧
          (s.unfenced ≠ [] → Config.firmwareSvn s.sec.fwSource = some t.store.fwFloor.val) ∧
          ∀ d : DieId, t.flashOf (4 * d.val) = .bytes s.sec.fwSource ∧ t.flashOf (4 * d.val + 1) = .bytes s.sec.fwSource
        | .flashFail _ b => t.sec.fwCode = Status.bootFlashFail ∧ t.store = s.store ∧
          ∀ e : DieId, if b then t.flashOf (4 * e.val) = s.flashOf (4 * e.val)
            else t.flashOf (4 * e.val + 1) = .bytes s.sec.fwSource
      else t.sec.fwCode = Status.bootFwAuthFail ∧ t.flash = s.flash ∧ t.store = s.store)) ∧
  (∀ (s : State) (code : Code) (P : State → Prop), P = (fun t => t = { s with sec := t.sec, srcs := t.srcs, store := t.store, stores := t.stores } ∧
      t.sec = { s.sec with keyCode := code, keyOp := .none } ∧ t.store = { s.store with imgKeys := t.store.imgKeys } ∧
      t.flagOf 0 srcKeyDone = true ∧ ∀ d : DieId, (s.die d.val).fenced = true → t.storeOf d.val = s.storeOf d.val) →
    (s.sec.keyOp = .none → exec .imageSigningSlotOperationEnd s = .next s) ∧
    (∀ k : BitVec 3, s.sec.keyOp = .revoke k → code = Status.ok → ∃ t, exec .imageSigningSlotOperationEnd s = .next t ∧ P t ∧
      (∀ i, i ≠ k.toNat → t.imgKey i = s.imgKey i) ∧
      (s.unfenced ≠ [] → t.imgKey k.toNat = { s.imgKey k.toNat with state := 2 }) ∧
      ∀ d : DieId, (s.die d.val).fenced = false → (t.storeOf d.val).imgKey k.toNat = t.store.imgKey k.toNat) ∧
    (∀ (k : BitVec 3) (a : Word), s.sec.keyOp = .enroll k a →
      code = (if Config.onCurve (s.hostBytes 0 a.toNat 96) = false then Status.descFieldRange
        else if (s.imgKey k.toNat).state = 0 ∧ s.anyTenant = false then Status.ok else Status.illegalInState) →
      ∃ t, exec .imageSigningSlotOperationEnd s = .next t ∧ P t ∧ (∀ i, i ≠ k.toNat → t.imgKey i = s.imgKey i) ∧
      (code ≠ Status.ok → t.store = s.store) ∧
      (code = Status.ok → s.unfenced ≠ [] → t.imgKey k.toNat = { state := 1, key := s.hostBytes 0 a.toNat 96 })))

/-- SPDM, IDE and telemetry (R339 to R342, R352). A mailbox answers every request while the primary Troroik runs: with a response
of the request's kind, with a refusal where no session, slot, algorithm or measurement fits, or, under overload, with ResponseNotReady alone.
KEY_EXCHANGE, FINISH, KEY_UPDATE and END_SESSION move its session; SET_TRANSPORT_KEY in a session gives an active tenant the key and
restarts its export counter. An IDE stream is programmed, started, stopped or lost, and no other stream changes. The interval of
telemetry doubles under overload up to 100 ms. -/
def Obligations.MailboxesAndIde : Prop :=
  (∀ (mb : Fn) (s : State) (x : Spdm), s.mailbox mb.val = x → s.troroikAnswers = true →
    (∀ (slot i : BitVec 8) (nonce key : BitVec 256) (ex : BitVec 768) (algs : List SpdmAlg) (off len : BitVec 16)
        (sig : Option SlotNonce) (c : Instr),
      c ∈ [Instr.getVersion mb, .getCapabilities mb, .negotiateAlgorithms ⟨mb, algs⟩, .getDigests mb, .getCertificate ⟨mb, slot, off, len⟩,
        .challenge mb ⟨slot, nonce⟩, .getMeasurements mb ⟨i, sig⟩, .keyExchange mb ⟨slot, ex⟩, .finish mb, .keyUpdate mb, .endSession mb,
        .setTransportKey mb key] →
      s.sec.overload = true → ∃ t, exec c s = .next t ∧ Mailboxed s t mb.val { x with answer := .notReady } ∧ t.free = s.free) ∧
    (s.sec.overload = false →
      (∃ t, exec (.getVersion mb) s = .next t ∧ Mailboxed s t mb.val { x with answer := .rsp 0 [0x12] }) ∧
      (∃ t bytes, exec (.getCapabilities mb) s = .next t ∧ Mailboxed s t mb.val { x with answer := .rsp 1 bytes }) ∧
      (∀ algs xs : List SpdmAlg, xs = deviceAlgs.filter (fun a => algs.contains a) →
        (xs ≠ [] → ∃ t bytes, exec (.negotiateAlgorithms ⟨mb, algs⟩) s = .next t ∧
          Mailboxed s t mb.val { x with algs := xs, answer := .rsp 2 bytes }) ∧
        (xs = [] → ∃ t, exec (.negotiateAlgorithms ⟨mb, algs⟩) s = .next t ∧ Mailboxed s t mb.val { x with answer := .refused })) ∧
      (∃ t, exec (.getDigests mb) s = .next t ∧ Mailboxed s t mb.val { x with answer := .rsp 3 (digest s.certChain) }) ∧
      (∀ off len : BitVec 16, ∃ t, exec (.getCertificate ⟨mb, 0, off, len⟩) s = .next t ∧
        Mailboxed s t mb.val { x with answer := .rsp 4 ((s.certChain.drop off.toNat).take len.toNat) }) ∧
      (∀ (nonce : BitVec 256) (bs sg : List Byte), bs = digest s.certChain →
        sg = Config.ecdsaSign s.aliasKey s.free (bs ++ leBytes 32 nonce.toNat) → ∃ t, exec (.challenge mb ⟨0, nonce⟩) s = .next t ∧
        Mailboxed s t mb.val { x with answer := .rsp 5 (bs ++ sg) }) ∧
      (∀ (i : BitVec 8) (bs : List Byte),
        bs = (if i = 0 then [10] else if i = 255 then ((List.range 10).map (fun k => s.measureBlock mb.val (k + 1))).flatten
          else s.measureBlock mb.val i.toNat) →
        (i.toNat ≤ 10 ∨ i = 255 →
          (∃ t, exec (.getMeasurements mb ⟨i, none⟩) s = .next t ∧ Mailboxed s t mb.val { x with answer := .rsp 6 bs }) ∧
          ∀ (nonce : BitVec 256) (sg : List Byte), sg = Config.ecdsaSign s.aliasKey s.free (bs ++ leBytes 32 nonce.toNat) →
            ∃ t, exec (.getMeasurements mb ⟨i, some ⟨0, nonce⟩⟩) s = .next t ∧
            Mailboxed s t mb.val { x with answer := .rsp 6 (bs ++ sg) }) ∧
        (10 < i.toNat → i ≠ 255 → ∀ sig, ∃ t, exec (.getMeasurements mb ⟨i, sig⟩) s = .next t ∧
          Mailboxed s t mb.val { x with answer := .refused })) ∧
      (∀ ex : BitVec 768, ∃ t bytes, exec (.keyExchange mb ⟨0, ex⟩) s = .next t ∧
        Mailboxed s t mb.val { x with session := 1, keyUpdates := 0, answer := .rsp 7 bytes }) ∧
      (∀ (slot : BitVec 8) (off len : BitVec 16) (nonce : BitVec 256) (ex : BitVec 768), slot ≠ 0 →
        ∀ c ∈ [Instr.getCertificate ⟨mb, slot, off, len⟩, .challenge mb ⟨slot, nonce⟩, .keyExchange mb ⟨slot, ex⟩], ∃ t, exec c s = .next t ∧
          Mailboxed s t mb.val { x with answer := .refused }) ∧
      (if x.session = 1 then ∃ t bytes, exec (.finish mb) s = .next t ∧
          Mailboxed s t mb.val { x with session := 2, answer := .rsp 8 bytes }
        else ∃ t, exec (.finish mb) s = .next t ∧ Mailboxed s t mb.val { x with answer := .refused }) ∧
      (if x.session = 2 then
          (∃ t bytes, exec (.keyUpdate mb) s = .next t ∧
            Mailboxed s t mb.val { x with keyUpdates := x.keyUpdates + 1, answer := .rsp 9 bytes }) ∧
          (∃ t bytes, exec (.endSession mb) s = .next t ∧
            Mailboxed s t mb.val { x with session := 0, keyUpdates := 0, answer := .rsp 10 bytes })
        else ∀ c ∈ [Instr.keyUpdate mb, .endSession mb], ∃ t, exec c s = .next t ∧
          Mailboxed s t mb.val { x with answer := .refused }) ∧
      (∀ key : BitVec 256, if x.session = 2 ∧ (s.tenant mb.val).state = .active then
          ∃ t bytes, exec (.setTransportKey mb key) s = .next t ∧ t = { s with sec := t.sec, free := t.free } ∧
            t.sec = { s.sec with spdm := t.sec.spdm, tenants := t.sec.tenants } ∧
            t.tenant mb.val = { s.tenant mb.val with transport := some key, exportCtr := 0 } ∧
            (∀ m, m ≠ mb.val → t.tenant m = s.tenant m) ∧ t.mailbox mb.val = { x with answer := .rsp 11 bytes } ∧
            ∀ m, m ≠ mb.val → t.mailbox m = s.mailbox m
        else ∃ t, exec (.setTransportKey mb key) s = .next t ∧ Mailboxed s t mb.val { x with answer := .refused }))) ∧
  (∀ (st : IdeStream) (s : State), s.troroikAnswers = true → s.sec.overload = false →
    (∀ key, ∃ t, exec (.ideKmRequest (.keyProgram st key)) s = .next t ∧
      t = { s with sec := { s.sec with ide := t.sec.ide } } ∧
      t.sec.ide.find? (fun i => i.stream == st) = some { stream := st, key := key, range := none } ∧
      t.sec.ide.filter (fun i => i.stream != st) = s.sec.ide.filter (fun i => i.stream != st)) ∧
    (∀ fn lo hi i, s.sec.ide.find? (fun i => i.stream == st) = some i → ∃ t, exec (.ideKmRequest (.goOn st fn lo hi)) s = .next t ∧
      t = { s with sec := { s.sec with ide := t.sec.ide } } ∧
      t.sec.ide.find? (fun i => i.stream == st) = some { i with range := some (fn.val, lo, hi) } ∧
      t.sec.ide.filter (fun i => i.stream != st) = s.sec.ide.filter (fun i => i.stream != st)) ∧
    (∃ t, exec (.ideKmRequest (.stop st)) s = .next t ∧ t = { s with sec := { s.sec with ide := t.sec.ide } } ∧
      t.sec.ide = s.sec.ide.filter (fun i => i.stream != st))) ∧
  (∀ (st : IdeStream) (s : State),
    if s.sec.ide.any (fun i => i.stream == st && i.range.isSome) then
      ∃ t, exec (.ideStreamLost st) s = .next t ∧ t = { s with sec := { s.sec with ide := t.sec.ide }, srcs := t.srcs } ∧
        t.sec.ide = s.sec.ide.filter (fun i => i.stream != st) ∧
        (if s.ideRequired then t.flagOf 0 srcIdeLost = true else t.srcs = s.srcs)
    else exec (.ideStreamLost st) s = .next s) ∧
  (∀ (heavy : Bool) (load : BitVec 8) (s : State), exec (.telemetryRefresh heavy load) s = .next { s with sec := { s.sec with
    overload := heavy, loadPct := load
    telemUs := if heavy then BitVec.ofNat 32 (min 100000 (2 * s.sec.telemUs.toNat)) else 1000 } })

/-! ### Interrupts and the log (chapter 09) -/

/-- Delivery (R218 to R224). Of the pending sources that may be delivered to MSI-X of a function, or to the Troroik of a die, the
first in the order of R219 is; a message goes out once for its vector and clears PENDING of every source of the die with that
vector, and the PF's pushes its vector and group. While delivery is held, or none may be delivered, nothing changes; a
function whose MSI-X is masked or off keeps its messages back and shows them in its Pending Bit Array. Delivery to the Troroik
waits during a structure switch (R223; the model's choice, log 133). The host's
change of MSI-X state changes that function's alone; HOLD and GROUP_BITS are written together. -/
def Obligations.Delivery : Prop :=
  (∀ (d : DieId) (fn : Fn) (s : State) (xs : List (Nat × Route)), xs = s.pendings d.val (s.canDeliver d.val fn.val) →
    (s.msixHeld d.val = true ∨ xs = [] → exec (.msixDeliver d fn) s = .next s) ∧
    (s.msixHeld d.val = false → xs ≠ [] → ∃ t, ∃ b : Nat × Route, exec (.msixDeliver d fn) s = .next t ∧ BestOf s.groupBits xs b ∧
      t = { s with srcs := t.srcs, dies := t.dies, msixOut := (d.val, fn.val, b.2.vector) :: s.msixOut } ∧
      (∀ k r, s.routeOfKey k = some r → s.srcHome k = d.val → r.troroik = false → r.fn = fn.val → r.vector = b.2.vector →
        t.src k = { s.src k with pend := false }) ∧
      (∀ k, s.srcHome k ≠ d.val ∨ s.routeOfKey k = none → t.src k = s.src k) ∧
      (∀ k, (s.src k).sameButPend (t.src k)) ∧
      (if fn = 0 then ∀ e, t.die e = if e = d.val then { s.die e with pfStack :=
          (BitVec.ofNat 8 b.2.vector, BitVec.ofNat 4 (prioGroup s.groupBits b.2.prio)) :: (s.die e).pfStack } else s.die e
        else t.dies = s.dies))) ∧
  (∀ (d : DieId) (s : State) (xs : List (Nat × Route)), xs = s.pendings d.val (fun r => r.troroik) →
    (s.sec.alive.getLsbD d.val = false ∨ (s.die d.val).switchHold = true ∨ xs = [] → exec (.troroikEventDeliver d) s = .next s) ∧
    (s.sec.alive.getLsbD d.val = true → (s.die d.val).switchHold = false → xs ≠ [] → ∃ t, ∃ b : Nat × Route, exec (.troroikEventDeliver d) s = .next t ∧
      BestOf s.groupBits xs b ∧ t = { s with srcs := t.srcs, troroikOut := (d.val, b.1) :: s.troroikOut } ∧
      ∀ k, t.src k = if k = srcKey d.val b.1 then { s.src k with pend := false } else s.src k)) ∧
  (∀ (k : Nat) (r : Route) (d : DieId) (fn : Fn) (s : State), (s.src k).pend = true → s.routeOfKey k = some r → r.troroik = false →
    r.fn = fn.val → (s.msixOf fn.val).enable = false ∨ (s.msixOf fn.val).functionMask = true →
    s.pendingBit fn.val r.vector = true ∧ exec (.msixDeliver d fn) s = .next s) ∧
  (∀ (fn : Fn) (s : State) (on : Bool) (m : Msix), m = s.msixOf fn.val →
    (∃ t, exec (.msixUnmask fn (.enable on)) s = .next t ∧ t = { s with msix := t.msix } ∧
      t.msixOf fn.val = { m with enable := on } ∧ ∀ k, k ≠ fn.val → t.msixOf k = s.msixOf k) ∧
    (∃ t, exec (.msixUnmask fn (.functionMask on)) s = .next t ∧ t = { s with msix := t.msix } ∧
      t.msixOf fn.val = { m with functionMask := on } ∧ ∀ k, k ≠ fn.val → t.msixOf k = s.msixOf k) ∧
    ∀ v : BitVec 8, fn = 0 ∨ v.toNat < 32 → ∃ t, exec (.msixUnmask fn (.vectorMask v on)) s = .next t ∧
      t = { s with msix := t.msix } ∧ t.msixOf fn.val = { m with unmasked := (t.msixOf fn.val).unmasked } ∧
      (∀ k, k ≠ fn.val → t.msixOf k = s.msixOf k) ∧
      ∀ i, i ∈ (t.msixOf fn.val).unmasked ↔ if i = v then on = false else i ∈ m.unmasked) ∧
  (∀ (v : Word) (s : State), s.power.ready = true → exec (.hold v) s = .next { s with
    gHold := bitAt v 0, groupBits := BitVec.ofNat 3 (min (fld v 6 4) 4) })

/-- R222: a write of INT_PF_EOI. The top entry is popped, and nothing else changes; an entry that lies lower is removed, the
topmost of its vector, and the write is recorded with the top vector as EXPECTED; a vector that is not in the stack leaves the
stack and is recorded NOT_FOUND. STACK_RESET empties the stack. -/
def Obligations.VectorCompletion : Prop :=
  ∀ (d : DieId) (s : State), s.power.ready = true →
    (∀ (v : Word) (g : BitVec 8), g = v.truncate 8 →
      (∀ p rest, (s.die d.val).pfStack = (g, p) :: rest → ∃ t, exec (.intPfEoi d v) s = .next t ∧ t = { s with dies := t.dies } ∧
        ∀ e, t.die e = if e = d.val then { s.die e with pfStack := rest } else s.die e) ∧
      (∀ top pre p post, (s.die d.val).pfStack = top :: pre ++ (g, p) :: post → top.1 ≠ g → (∀ x ∈ pre, x.1 ≠ g) →
        ∃ t, exec (.intPfEoi d v) s = .next t ∧ t = { s with dies := t.dies, srcs := t.srcs } ∧
          (t.die d.val).pfStack = top :: pre ++ post ∧
          NestFaulted s t d.val { notFound := false, empty := false, expected := top.1, given := g } ∧
          ∀ e, e ≠ d.val → t.die e = s.die e) ∧
      ((∀ x ∈ (s.die d.val).pfStack, x.1 ≠ g) → ∃ t, exec (.intPfEoi d v) s = .next t ∧
        t = { s with dies := t.dies, srcs := t.srcs } ∧ (t.die d.val).pfStack = (s.die d.val).pfStack ∧
        (∀ e, e ≠ d.val → t.die e = s.die e) ∧
        NestFaulted s t d.val { notFound := true, empty := (s.die d.val).pfStack.isEmpty
                                expected := ((s.die d.val).pfStack.head?.map Prod.fst).getD 0, given := g })) ∧
    ∃ t, exec (.stackReset d) s = .next t ∧ t = { s with dies := t.dies } ∧
      ∀ e, t.die e = if e = d.val then { s.die e with pfStack := [] } else s.die e

/-- Flags, counters and the Thyme log (R214 to R216, R225 to R229). Clearing a flag leaves its counter and PENDING, and clearing
counters leaves flags and PENDING. A record at the front of a die's queue is merged into the newest entry of its event where R228
lets it, or takes the next number and its slot; every other entry of the log stands, and the source of a written entry is
raised. CLEAR_DROPS clears the count of dropped records alone. -/
def Obligations.FlagsCountersLog : Prop :=
  (∀ (d : DieId) (s : State), s.power.ready = true →
    (∃ t, exec (.clearCounts d) s = .next t ∧ t = { s with srcs := t.srcs } ∧
      ∀ k, t.src k = if s.srcHome k = d.val then { s.src k with count := 0 } else s.src k) ∧
    (∀ src : BitVec 14, if s.srcServed d.val src.toNat then ∃ t, exec (.countClear d src) s = .next t ∧ t = { s with srcs := t.srcs } ∧
        ∀ k, t.src k = if k = srcKey d.val src.toNat then { s.src k with count := 0 } else s.src k
      else exec (.countClear d src) s = .next s) ∧
    (∃ t, exec (.clearDrops d) s = .next t ∧ t = { s with dies := t.dies } ∧
      ∀ e, t.die e = if e = d.val then { s.die e with logDrops := 0 } else s.die e)) ∧
  (∀ (d : DieId) (src : BitVec 14) (s : State), srcAssigned src.toNat = true →
    s.power.ready = true ∨ pwrFlag src.toNat = true ∨ src.toNat = srcSkew →
    ∃ t, exec (.flagClear d src) s = .next t ∧ t = { s with srcs := t.srcs, power := t.power } ∧
      (∀ k, t.src k = if k = srcKey d.val src.toNat then { s.src k with flag := false } else s.src k) ∧
      t.power = (if src.toNat = srcCause 5 then { s.power with tripLatch := false, tripPin := false } else s.power)) ∧
  (∀ (d : DieId) (src : BitVec 14) (s : State), srcAssigned src.toNat = false → exec (.flagClear d src) s = .next s) ∧
  (∀ (d : DieId) (s : State), s.sec.alive.getLsbD d.val = true → (s.die d.val).logQueue = [] →
    exec (.thymeRecordWrite d) s = .next s) ∧
  (∀ (d : DieId) (s : State) (r : LogRec) (rest : List LogRec) (heavy : Bool), s.sec.alive.getLsbD d.val = true →
    (s.die d.val).logQueue = r :: rest → heavy = decide (192 < (r :: rest).length) → ∃ t, exec (.thymeRecordWrite d) s = .next t ∧
      t = { s with dies := t.dies, log := t.log, srcs := t.srcs } ∧ t.flagOf d.val srcLogWritten = true ∧
      (t.die d.val).logQueue = rest ∧ (∀ e, e ≠ d.val → t.die e = s.die e) ∧
      (∀ k e, s.newestOf d.val r.event = some (k, e) → merges (s.die d.val).coalesceUs heavy r e = true →
        (t.die d.val).logNext = (s.die d.val).logNext ∧ t.logEntry k = e.merge r ∧ ∀ i, i ≠ k → t.logEntry i = s.logEntry i) ∧
      ((∀ k e, s.newestOf d.val r.event = some (k, e) → merges (s.die d.val).coalesceUs heavy r e = false) →
        (t.die d.val).logNext = nextSeq (s.die d.val).logNext ∧
        t.logEntry (lkey d.val (logSlot (s.die d.val).logNext)) =
          { time := r.time, seq := (s.die d.val).logNext, code := r.code, event := r.event, detail := r.detail, repeats := 0
            source := r.source, die := BitVec.ofNat 2 d.val, spanUs := 0 } ∧
        ∀ i, i ≠ lkey d.val (logSlot (s.die d.val).logNext) → t.logEntry i = s.logEntry i))

/-! ### Registers (chapter 01) -/

/-- R61: until READY a write of BAR0 outside the registers it serves has no effect and a read there is zero, the time reads as
it is, and a doorbell is neither acknowledged nor accepted. -/
def Obligations.BeforeReady : Prop :=
  ∀ s : State, s.power.ready = false →
    (∀ (fn : Fn) (a : BitVec 27) (v : Word), servedEarly a.toNat = false →
      exec (.registerWrite fn a v) s = .next s ∧ s.readReg fn a.toNat = 0) ∧
    s.readReg 0 0x4000100 = s.time.now ∧
    ∀ (d : DieId) (q : QId) (fn : Fn) (tail : BitVec 48) (ide : Option IdeStream), exec (.doorbell d q fn tail ide) s = .next s

/-- Register writes (R16 to R19, R192). A misaligned address, and for a VF an address outside the slots of its queues, takes no
effect. Each of these registers then reads back what was written to its RW fields, and nothing but those fields changes: the image
and turn registers and the distribution only while the turn is idle. A register whose write is a row of its own does what that
row does. -/
def Obligations.Registers : Prop :=
  (∀ (fn : Fn) (a : BitVec 27) (v : Word) (s : State),
    a.toNat % 8 ≠ 0 ∨ (fn ≠ 0 ∧ (2 ^ 20 ≤ a.toNat ∨ s.mayWrite (a.toNat / 256) fn = false)) →
    exec (.registerWrite fn a v) s = .next s ∧ s.readReg fn a.toNat = 0) ∧
  (∀ (v : Word) (s : State), s.power.ready = true →
    WritesTo s 0x4000300 v (v &&& ~~~0x3F#64) (fun t => { s with img := { s.img with loadAddr := t.img.loadAddr } }) ∧
    WritesTo s 0x4000700 v ((v &&& 1) ||| (if fld v 6 4 ≤ 4 then v &&& 0x70 else 0x40) ||| (s.readReg 0 0x4000700 &&& 2))
      (fun t => { s with gHold := t.gHold, groupBits := t.groupBits }) ∧
    WritesTo s 0x4000A98 v (v &&& 0xFFFFFFFF00000000#64) (fun t => { s with sec := { s.sec with fwLen := t.sec.fwLen } }) ∧
    (bitAt v 0 = false → WritesTo s 0x4000608 v (v &&& 0xFFFF0000#64)
      (fun t => { s with pair := { s.pair with timeoutMs := t.pair.timeoutMs } })) ∧
    (s.img.turnState = .idle →
      WritesTo s 0x4000338 v v (fun t => { s with img := { s.img with
        pressCount := t.img.pressCount, pressBase := t.img.pressBase } }) ∧
      WritesTo s 0x4000340 v v (fun t => { s with img := { s.img with expected := t.img.expected, mapBase := t.img.mapBase } }) ∧
      WritesTo s 0x4000350 v (v &&& 0x3FFFFFFFFFF#64) (fun t => { s with img := { s.img with weightsNext := t.img.weightsNext } }) ∧
      WritesTo s 0x4008000 v (v &&& 0x3FFFFFFFFC0#64) (fun t => { s with shardTable := t.shardTable }) ∧
      ∀ i : Fin 256, WritesTo s (BitVec.ofNat 27 (0x4009000 + 8 * i.val)) v (v &&& 0xFF01#64) (fun t => { s with dist := t.dist })) ∧
    (s.img.turnState ≠ .idle → ∀ a ∈ [0x4000338#27, 0x4000340#27, 0x4000350#27, 0x4008000#27],
      exec (.registerWrite 0 a v) s = .next s) ∧
    (∀ d : DieId,
      WritesTo s (BitVec.ofNat 27 (d.val * 0x1000000 + 0x320100)) v (v &&& 0x7FF#64) (fun t => { s with dies := t.dies }) ∧
      WritesTo s (BitVec.ofNat 27 (d.val * 0x1000000 + 0x3A0078)) v (v &&& 0xFFFF#64) (fun t => { s with dies := t.dies }) ∧
      (bitAt v 0 = false → WritesTo s (BitVec.ofNat 27 (d.val * 0x1000000 + 0x600010)) v (v &&& 0xFFFF0000#64)
        (fun t => { s with dies := t.dies })) ∧
      WritesTo s (BitVec.ofNat 27 (d.val * 0x1000000 + 0x800008)) v (if v &&& 15 = 0 then 1 else v &&& 15)
        (fun t => { s with ports := t.ports })) ∧
    (∀ (d : DieId) (q : QId), (s.queue (qnum d q)).owner = 0 → (s.queue (qnum d q)).enable = false →
      WritesTo s (BitVec.ofNat 27 (d.val * 0x1000000 + 0x400000 + 256 * q.val)) v (v &&& ~~~0x3E#64)
        (fun t => { s with queues := t.queues }) ∧
      WritesTo s (BitVec.ofNat 27 (d.val * 0x1000000 + 0x400010 + 256 * q.val)) v (v &&& ~~~0x3E#64)
        (fun t => { s with queues := t.queues }))) ∧
  (∀ (v : Word) (s : State), (bitAt v 0 = true → exec (.registerWrite 0 0x4000308 v) s = exec (.load v) s) ∧
    exec (.registerWrite 0 0x4000328 v) s = exec (.imgGenFloorWrite v) s ∧
    exec (.registerWrite 0 0x4000120 v) s = exec (.logTimeSet v) s ∧
    exec (.registerWrite 0 0x4000218 v) s = exec (.pwrCapWrite (BitVec.ofNat 11 (fld v 26 16)) (BitVec.ofNat 10 (fld v 9 0))) s ∧
    exec (.registerWrite 0 0x4000700 v) s = exec (.hold v) s ∧
    ∀ d : DieId, exec (.registerWrite 0 (BitVec.ofNat 27 (d.val * 0x1000000 + 0x500008)) v) s = exec (.intPfEoi d v) s)

end
end

