-- ==== Sys2Proof/Laws/SMap.lean ====
section
/-! SUPPORT. Sparse arrays: every operation keeps the canonical form, and what a read finds after a write. -/

namespace Sys2Proof.Machine.SMap

variable {α : Type}

/-- Every key of the array lies above `k`. -/
def above (k : Nat) (m : SMap α) : Prop := ∀ e ∈ m, k < e.1

theorem sorted_cons {a : Nat × α} {m : SMap α} : sorted (a :: m) = true ↔ above a.1 m ∧ sorted m = true := by
  induction m generalizing a with
  | nil => simp [sorted, above]
  | cons b m ih =>
    simp only [sorted, Bool.and_eq_true, decide_eq_true_eq]
    constructor
    · rintro ⟨h, hs⟩
      refine ⟨?_, hs⟩
      intro e he
      rcases List.mem_cons.mp he with rfl | he
      · exact h
      · exact Nat.lt_trans h ((ih.mp hs).1 e he)
    · rintro ⟨h, hs⟩
      exact ⟨h b (by simp), hs⟩

theorem sorted_tail {a : Nat × α} {m : SMap α} (h : sorted (a :: m) = true) : sorted m = true := (sorted_cons.mp h).2

theorem above_mono {j k : Nat} {m : SMap α} (h : j ≤ k) (hk : above k m) : above j m :=
  fun e he => Nat.lt_of_le_of_lt h (hk e he)

theorem above_filter {k : Nat} {m : SMap α} (p : Nat × α → Bool) (h : above k m) : above k (m.filter p) :=
  fun e he => h e (List.mem_filter.mp he).1

theorem sorted_filter (p : Nat × α → Bool) {m : SMap α} (h : sorted m = true) : sorted (m.filter p) = true := by
  induction m with
  | nil => simpa [List.filter] using h
  | cons a m ih =>
    obtain ⟨ha, hm⟩ := sorted_cons.mp h
    by_cases hp : p a = true
    · rw [List.filter_cons_of_pos hp]
      exact sorted_cons.mpr ⟨above_filter p ha, ih hm⟩
    · rw [List.filter_cons_of_neg hp]
      exact ih hm

theorem mem_ins {m : SMap α} {i : Nat} {v : α} {e : Nat × α} (h : e ∈ ins m i v) : e = (i, v) ∨ e ∈ m := by
  induction m with
  | nil => simpa [ins] using h
  | cons a m ih =>
    simp only [ins] at h
    split at h
    · simpa using h
    · split at h
      · rcases List.mem_cons.mp h with h | h
        · exact .inl h
        · exact .inr (List.mem_cons_of_mem _ h)
      · rcases List.mem_cons.mp h with h | h
        · exact .inr (h ▸ List.mem_cons_self)
        · exact (ih h).imp_right (List.mem_cons_of_mem _)

theorem sorted_ins {m : SMap α} (i : Nat) (v : α) (h : sorted m = true) : sorted (ins m i v) = true := by
  induction m with
  | nil => simp [ins, sorted]
  | cons a m ih =>
    obtain ⟨ha, hm⟩ := sorted_cons.mp h
    simp only [ins]
    split
    · rename_i hi
      refine sorted_cons.mpr ⟨?_, h⟩
      intro e he
      rcases List.mem_cons.mp he with rfl | he
      · exact hi
      · exact Nat.lt_trans hi (ha e he)
    · split
      · rename_i hi
        exact sorted_cons.mpr ⟨hi ▸ ha, hm⟩
      · rename_i h1 h2
        refine sorted_cons.mpr ⟨?_, ih hm⟩
        intro e he
        rcases mem_ins he with rfl | he
        · show a.1 < i
          omega
        · exact ha e he

section Canonical

variable [DecidableEq α] {dflt : α}

theorem wf_iff {m : SMap α} : wf dflt m = true ↔ sorted m = true ∧ ∀ e ∈ m, e.2 ≠ dflt := by
  simp [wf, List.all_eq_true]

theorem wf_nil : wf dflt ([] : SMap α) = true := by simp [wf, sorted]

theorem wf_eraseIf (p : Nat → Bool) {m : SMap α} (h : wf dflt m = true) : wf dflt (eraseIf p m) = true := by
  obtain ⟨hs, hd⟩ := wf_iff.mp h
  exact wf_iff.mpr ⟨sorted_filter _ hs, fun e he => hd e (List.mem_filter.mp he).1⟩

/-- A write keeps the canonical form. -/
theorem wf_set {m : SMap α} (i : Nat) (v : α) (h : wf dflt m = true) : wf dflt (set dflt m i v) = true := by
  unfold set
  split
  · exact wf_eraseIf _ h
  · rename_i hv
    obtain ⟨hs, hd⟩ := wf_iff.mp h
    refine wf_iff.mpr ⟨sorted_ins i v hs, fun e he => ?_⟩
    rcases mem_ins he with rfl | he
    · exact hv
    · exact hd e he

theorem wf_modify {m : SMap α} (i : Nat) (f : α → α) (h : wf dflt m = true) : wf dflt (modify dflt m i f) = true :=
  wf_set i _ h

theorem wf_setRun {m : SMap α} (i : Nat) (vs : List α) (h : wf dflt m = true) : wf dflt (setRun dflt m i vs) = true := by
  induction vs generalizing m i with
  | nil => exact h
  | cons v vs ih => exact ih _ (wf_set i v h)

theorem wf_mapAll (f : Nat → α → α) (m : SMap α) : wf dflt (mapAll dflt f m) = true := by
  induction m with
  | nil => exact wf_nil
  | cons a m ih => exact wf_set _ _ ih

/-! ### Reading after writing -/

omit [DecidableEq α] in
theorem get_of_above {m : SMap α} {i : Nat} (h : above i m) : get dflt m i = dflt := by
  induction m with
  | nil => rfl
  | cons a m ih =>
    have := h a (by simp)
    simp only [get]
    rw [if_neg (by omega), ih (fun e he => h e (List.mem_cons_of_mem _ he))]

omit [DecidableEq α] in
theorem get_ins_same (m : SMap α) (i : Nat) (v : α) : get dflt (ins m i v) i = v := by
  induction m with
  | nil => simp [ins, get]
  | cons a m ih =>
    simp only [ins]
    split
    · simp [get]
    · split
      · simp [get]
      · simp only [get]
        rw [if_neg (by omega), ih]

omit [DecidableEq α] in
theorem get_ins_other (m : SMap α) {i j : Nat} (v : α) (h : i ≠ j) : get dflt (ins m i v) j = get dflt m j := by
  induction m with
  | nil => simp [ins, get, h]
  | cons a m ih =>
    simp only [ins]
    split
    · simp [get, h]
    · split
      · rename_i hi
        simp only [get]
        rw [if_neg h, if_neg (by omega)]
      · simp only [get, ih]

omit [DecidableEq α] in
theorem get_eraseIf (p : Nat → Bool) (m : SMap α) (i : Nat) :
    get dflt (eraseIf p m) i = if p i then dflt else get dflt m i := by
  induction m with
  | nil => simp [eraseIf, get]
  | cons a m ih =>
    unfold eraseIf at ih ⊢
    by_cases hp : p a.1 = true
    · rw [List.filter_cons_of_neg (by simp [hp]), ih]
      by_cases hi : a.1 = i
      · subst hi
        simp [hp]
      · simp [get, hi]
    · rw [List.filter_cons_of_pos (by simp [hp])]
      simp only [get, ih]
      by_cases hi : a.1 = i
      · subst hi
        simp [hp]
      · simp [hi]

/-- A read of the key written finds the value. -/
@[simp] theorem get_set_same (m : SMap α) (i : Nat) (v : α) : get dflt (set dflt m i v) i = v := by
  unfold set
  split
  · rename_i h
    rw [get_eraseIf]
    simp [h]
  · exact get_ins_same m i v

/-- A read of another key finds what was there. -/
theorem get_set_other (m : SMap α) {i j : Nat} (v : α) (h : i ≠ j) : get dflt (set dflt m i v) j = get dflt m j := by
  unfold set
  split
  · rw [get_eraseIf]
    simp [Ne.symm h]
  · exact get_ins_other m v h

theorem get_set (m : SMap α) (i j : Nat) (v : α) : get dflt (set dflt m i v) j = if i = j then v else get dflt m j := by
  by_cases h : i = j
  · subst h
    simp
  · simp [h, get_set_other m v h]

/-- A read outside a run of writes finds what was there. -/
theorem get_setRun_other (m : SMap α) (i j : Nat) (vs : List α) (h : j < i ∨ i + vs.length ≤ j) :
    get dflt (setRun dflt m i vs) j = get dflt m j := by
  induction vs generalizing m i with
  | nil => rfl
  | cons v vs ih =>
    simp only [List.length_cons] at h
    rw [setRun, ih _ _ (by omega), get_set_other _ _ (by omega)]

/-- A read inside a run of writes finds the value written there. -/
theorem get_setRun_same (m : SMap α) (i : Nat) (vs : List α) (k : Nat) (h : k < vs.length) :
    get dflt (setRun dflt m i vs) (i + k) = vs[k] := by
  induction vs generalizing m i k with
  | nil => simp at h
  | cons v vs ih =>
    rw [setRun]
    cases k with
    | zero =>
      rw [get_setRun_other _ _ _ _ (by omega)]
      simp
    | succ k =>
      have := ih (set dflt m i v) (i + 1) k (by simpa using h)
      rw [show i + (k + 1) = i + 1 + k by omega, this]
      rfl

/-- After a change of every listed value a read finds the value changed, and the default where nothing is listed. -/
theorem get_mapAll (f : Nat → α → α) (m : SMap α) (i : Nat) :
    get dflt (mapAll dflt f m) i = if i ∈ keys m then f i (get dflt m i) else dflt := by
  induction m with
  | nil => simp [mapAll, get, keys]
  | cons a m ih =>
    have hc : mapAll dflt f (a :: m) = set dflt (mapAll dflt f m) a.1 (f a.1 a.2) := rfl
    rw [hc]
    by_cases hi : a.1 = i
    · subst hi
      simp [get, keys]
    · rw [get_set_other _ _ hi, ih]
      have hk : (i ∈ keys (a :: m)) ↔ i ∈ keys m := by
        simp only [keys, List.map_cons, List.mem_cons]
        exact ⟨fun h => h.resolve_left (fun e => hi e.symm), .inr⟩
      simp [get, hi, hk]

omit [DecidableEq α] in
/-- A key that is not listed holds the default. -/
theorem get_unlisted {m : SMap α} {i : Nat} (h : i ∉ keys m) : get dflt m i = dflt := by
  induction m with
  | nil => rfl
  | cons a m ih =>
    have h1 : ¬ a.1 = i := fun e => h (by simp [keys, e])
    have h2 : i ∉ keys m := fun e => h (by simp only [keys] at e ⊢; simp [e])
    simp [get, h1, ih h2]

/-- Where the change leaves the default alone, a read finds the changed value at every key. -/
theorem get_mapAll_of_fix (f : Nat → α → α) (m : SMap α) (i : Nat) (h : f i dflt = dflt) :
    get dflt (mapAll dflt f m) i = f i (get dflt m i) := by
  rw [get_mapAll]
  split
  · rfl
  · rename_i hi
    rw [get_unlisted hi, h]

end Canonical

end Sys2Proof.Machine.SMap
end

