-- ==== Sys2Proof/Laws/State.lean ====
section
/-! SUPPORT. Reading after writing: what every writer of Machine/Ops.lean leaves in every field of the state. -/

namespace Sys2Proof.Machine

/-! ### setDie -/

@[simp] theorem State.setDie_same (s : State) (i : Nat) (v : Die) : (s.setDie i v).die i = v :=
  SMap.get_set_same _ _ _
theorem State.setDie_other (s : State) (v : Die) {i j : Nat} (h : i ≠ j) : (s.setDie i v).die j = s.die j :=
  SMap.get_set_other _ _ h
@[simp] theorem State.setDie_pending (s : State) (i : Nat) (v : Die) : (s.setDie i v).pending = s.pending := rfl
@[simp] theorem State.setDie_power (s : State) (i : Nat) (v : Die) : (s.setDie i v).power = s.power := rfl
@[simp] theorem State.setDie_time (s : State) (i : Nat) (v : Die) : (s.setDie i v).time = s.time := rfl
@[simp] theorem State.setDie_img (s : State) (i : Nat) (v : Die) : (s.setDie i v).img = s.img := rfl
@[simp] theorem State.setDie_sec (s : State) (i : Nat) (v : Die) : (s.setDie i v).sec = s.sec := rfl
@[simp] theorem State.setDie_store (s : State) (i : Nat) (v : Die) : (s.setDie i v).store = s.store := rfl
@[simp] theorem State.setDie_stores (s : State) (i : Nat) (v : Die) : (s.setDie i v).stores = s.stores := rfl
@[simp] theorem State.setDie_pair (s : State) (i : Nat) (v : Die) : (s.setDie i v).pair = s.pair := rfl
@[simp] theorem State.setDie_gHold (s : State) (i : Nat) (v : Die) : (s.setDie i v).gHold = s.gHold := rfl
@[simp] theorem State.setDie_groupBits (s : State) (i : Nat) (v : Die) : (s.setDie i v).groupBits = s.groupBits := rfl
@[simp] theorem State.setDie_shardTable (s : State) (i : Nat) (v : Die) : (s.setDie i v).shardTable = s.shardTable := rfl
@[simp] theorem State.setDie_pressCode (s : State) (i : Nat) (v : Die) : (s.setDie i v).pressCode = s.pressCode := rfl
@[simp] theorem State.setDie_pressIndex (s : State) (i : Nat) (v : Die) : (s.setDie i v).pressIndex = s.pressIndex := rfl
@[simp] theorem State.setDie_resendRefused (s : State) (i : Nat) (v : Die) : (s.setDie i v).resendRefused = s.resendRefused := rfl
@[simp] theorem State.setDie_msixOut (s : State) (i : Nat) (v : Die) : (s.setDie i v).msixOut = s.msixOut := rfl
@[simp] theorem State.setDie_troroikOut (s : State) (i : Nat) (v : Die) : (s.setDie i v).troroikOut = s.troroikOut := rfl
@[simp] theorem State.setDie_grants (s : State) (i : Nat) (v : Die) : (s.setDie i v).grants = s.grants := rfl
@[simp] theorem State.setDie_lastGrant (s : State) (i : Nat) (v : Die) : (s.setDie i v).lastGrant = s.lastGrant := rfl
@[simp] theorem State.setDie_free (s : State) (i : Nat) (v : Die) : (s.setDie i v).free = s.free := rfl
@[simp] theorem State.setDie_queue_at (s : State) (i j : Nat) (v : Die) : (s.setDie i v).queue j = s.queue j := rfl
@[simp] theorem State.setDie_group_at (s : State) (i j : Nat) (v : Die) : (s.setDie i v).group j = s.group j := rfl
@[simp] theorem State.setDie_src_at (s : State) (i j : Nat) (v : Die) : (s.setDie i v).src j = s.src j := rfl
@[simp] theorem State.setDie_msixOf_at (s : State) (i j : Nat) (v : Die) : (s.setDie i v).msixOf j = s.msixOf j := rfl
@[simp] theorem State.setDie_block_at (s : State) (i j : Nat) (v : Die) : (s.setDie i v).block j = s.block j := rfl
@[simp] theorem State.setDie_vatByte_at (s : State) (i j : Nat) (v : Die) : (s.setDie i v).vatByte j = s.vatByte j := rfl
@[simp] theorem State.setDie_vatCondAt_at (s : State) (i j : Nat) (v : Die) : (s.setDie i v).vatCondAt j = s.vatCondAt j := rfl
@[simp] theorem State.setDie_hbmByte_at (s : State) (i j : Nat) (v : Die) : (s.setDie i v).hbmByte j = s.hbmByte j := rfl
@[simp] theorem State.setDie_tag_at (s : State) (i j : Nat) (v : Die) : (s.setDie i v).tag j = s.tag j := rfl
@[simp] theorem State.setDie_hbmCondAt_at (s : State) (i j : Nat) (v : Die) : (s.setDie i v).hbmCondAt j = s.hbmCondAt j := rfl
@[simp] theorem State.setDie_hostByte_at (s : State) (i j : Nat) (v : Die) : (s.setDie i v).hostByte j = s.hostByte j := rfl
@[simp] theorem State.setDie_flashOf_at (s : State) (i j : Nat) (v : Die) : (s.setDie i v).flashOf j = s.flashOf j := rfl
@[simp] theorem State.setDie_cell_at (s : State) (i j : Nat) (v : Die) : (s.setDie i v).cell j = s.cell j := rfl
@[simp] theorem State.setDie_shadow_at (s : State) (i j : Nat) (v : Die) : (s.setDie i v).shadow j = s.shadow j := rfl
@[simp] theorem State.setDie_pbank_at (s : State) (i j : Nat) (v : Die) : (s.setDie i v).pbank j = s.pbank j := rfl
@[simp] theorem State.setDie_accEntry_at (s : State) (i j : Nat) (v : Die) : (s.setDie i v).accEntry j = s.accEntry j := rfl
@[simp] theorem State.setDie_bank_at (s : State) (i j : Nat) (v : Die) : (s.setDie i v).bank j = s.bank j := rfl
@[simp] theorem State.setDie_chain_at (s : State) (i j : Nat) (v : Die) : (s.setDie i v).chain j = s.chain j := rfl
@[simp] theorem State.setDie_stream_at (s : State) (i j : Nat) (v : Die) : (s.setDie i v).stream j = s.stream j := rfl
@[simp] theorem State.setDie_ctx_at (s : State) (i j : Nat) (v : Die) : (s.setDie i v).ctx j = s.ctx j := rfl
@[simp] theorem State.setDie_pfx_at (s : State) (i j : Nat) (v : Die) : (s.setDie i v).pfx j = s.pfx j := rfl
@[simp] theorem State.setDie_adapter_at (s : State) (i j : Nat) (v : Die) : (s.setDie i v).adapter j = s.adapter j := rfl
@[simp] theorem State.setDie_pool_at (s : State) (i j : Nat) (v : Die) : (s.setDie i v).pool j = s.pool j := rfl
@[simp] theorem State.setDie_ckpt_at (s : State) (i j : Nat) (v : Die) : (s.setDie i v).ckpt j = s.ckpt j := rfl
@[simp] theorem State.setDie_port_at (s : State) (i j : Nat) (v : Die) : (s.setDie i v).port j = s.port j := rfl
@[simp] theorem State.setDie_job_at (s : State) (i j : Nat) (v : Die) : (s.setDie i v).job j = s.job j := rfl
@[simp] theorem State.setDie_jobFlags_at (s : State) (i j : Nat) (v : Die) : (s.setDie i v).jobFlags j = s.jobFlags j := rfl
@[simp] theorem State.setDie_bucket_at (s : State) (i j : Nat) (v : Die) : (s.setDie i v).bucket j = s.bucket j := rfl
@[simp] theorem State.setDie_distEntry_at (s : State) (i j : Nat) (v : Die) : (s.setDie i v).distEntry j = s.distEntry j := rfl
@[simp] theorem State.setDie_logEntry_at (s : State) (i j : Nat) (v : Die) : (s.setDie i v).logEntry j = s.logEntry j := rfl

/-! ### setQueue -/

@[simp] theorem State.setQueue_same (s : State) (i : Nat) (v : Queue) : (s.setQueue i v).queue i = v :=
  SMap.get_set_same _ _ _
theorem State.setQueue_other (s : State) (v : Queue) {i j : Nat} (h : i ≠ j) : (s.setQueue i v).queue j = s.queue j :=
  SMap.get_set_other _ _ h
@[simp] theorem State.setQueue_pending (s : State) (i : Nat) (v : Queue) : (s.setQueue i v).pending = s.pending := rfl
@[simp] theorem State.setQueue_power (s : State) (i : Nat) (v : Queue) : (s.setQueue i v).power = s.power := rfl
@[simp] theorem State.setQueue_time (s : State) (i : Nat) (v : Queue) : (s.setQueue i v).time = s.time := rfl
@[simp] theorem State.setQueue_img (s : State) (i : Nat) (v : Queue) : (s.setQueue i v).img = s.img := rfl
@[simp] theorem State.setQueue_sec (s : State) (i : Nat) (v : Queue) : (s.setQueue i v).sec = s.sec := rfl
@[simp] theorem State.setQueue_store (s : State) (i : Nat) (v : Queue) : (s.setQueue i v).store = s.store := rfl
@[simp] theorem State.setQueue_stores (s : State) (i : Nat) (v : Queue) : (s.setQueue i v).stores = s.stores := rfl
@[simp] theorem State.setQueue_pair (s : State) (i : Nat) (v : Queue) : (s.setQueue i v).pair = s.pair := rfl
@[simp] theorem State.setQueue_gHold (s : State) (i : Nat) (v : Queue) : (s.setQueue i v).gHold = s.gHold := rfl
@[simp] theorem State.setQueue_groupBits (s : State) (i : Nat) (v : Queue) : (s.setQueue i v).groupBits = s.groupBits := rfl
@[simp] theorem State.setQueue_shardTable (s : State) (i : Nat) (v : Queue) : (s.setQueue i v).shardTable = s.shardTable := rfl
@[simp] theorem State.setQueue_pressCode (s : State) (i : Nat) (v : Queue) : (s.setQueue i v).pressCode = s.pressCode := rfl
@[simp] theorem State.setQueue_pressIndex (s : State) (i : Nat) (v : Queue) : (s.setQueue i v).pressIndex = s.pressIndex := rfl
@[simp] theorem State.setQueue_resendRefused (s : State) (i : Nat) (v : Queue) : (s.setQueue i v).resendRefused = s.resendRefused := rfl
@[simp] theorem State.setQueue_msixOut (s : State) (i : Nat) (v : Queue) : (s.setQueue i v).msixOut = s.msixOut := rfl
@[simp] theorem State.setQueue_troroikOut (s : State) (i : Nat) (v : Queue) : (s.setQueue i v).troroikOut = s.troroikOut := rfl
@[simp] theorem State.setQueue_grants (s : State) (i : Nat) (v : Queue) : (s.setQueue i v).grants = s.grants := rfl
@[simp] theorem State.setQueue_lastGrant (s : State) (i : Nat) (v : Queue) : (s.setQueue i v).lastGrant = s.lastGrant := rfl
@[simp] theorem State.setQueue_free (s : State) (i : Nat) (v : Queue) : (s.setQueue i v).free = s.free := rfl
@[simp] theorem State.setQueue_die_at (s : State) (i j : Nat) (v : Queue) : (s.setQueue i v).die j = s.die j := rfl
@[simp] theorem State.setQueue_group_at (s : State) (i j : Nat) (v : Queue) : (s.setQueue i v).group j = s.group j := rfl
@[simp] theorem State.setQueue_src_at (s : State) (i j : Nat) (v : Queue) : (s.setQueue i v).src j = s.src j := rfl
@[simp] theorem State.setQueue_msixOf_at (s : State) (i j : Nat) (v : Queue) : (s.setQueue i v).msixOf j = s.msixOf j := rfl
@[simp] theorem State.setQueue_block_at (s : State) (i j : Nat) (v : Queue) : (s.setQueue i v).block j = s.block j := rfl
@[simp] theorem State.setQueue_vatByte_at (s : State) (i j : Nat) (v : Queue) : (s.setQueue i v).vatByte j = s.vatByte j := rfl
@[simp] theorem State.setQueue_vatCondAt_at (s : State) (i j : Nat) (v : Queue) : (s.setQueue i v).vatCondAt j = s.vatCondAt j := rfl
@[simp] theorem State.setQueue_hbmByte_at (s : State) (i j : Nat) (v : Queue) : (s.setQueue i v).hbmByte j = s.hbmByte j := rfl
@[simp] theorem State.setQueue_tag_at (s : State) (i j : Nat) (v : Queue) : (s.setQueue i v).tag j = s.tag j := rfl
@[simp] theorem State.setQueue_hbmCondAt_at (s : State) (i j : Nat) (v : Queue) : (s.setQueue i v).hbmCondAt j = s.hbmCondAt j := rfl
@[simp] theorem State.setQueue_hostByte_at (s : State) (i j : Nat) (v : Queue) : (s.setQueue i v).hostByte j = s.hostByte j := rfl
@[simp] theorem State.setQueue_flashOf_at (s : State) (i j : Nat) (v : Queue) : (s.setQueue i v).flashOf j = s.flashOf j := rfl
@[simp] theorem State.setQueue_cell_at (s : State) (i j : Nat) (v : Queue) : (s.setQueue i v).cell j = s.cell j := rfl
@[simp] theorem State.setQueue_shadow_at (s : State) (i j : Nat) (v : Queue) : (s.setQueue i v).shadow j = s.shadow j := rfl
@[simp] theorem State.setQueue_pbank_at (s : State) (i j : Nat) (v : Queue) : (s.setQueue i v).pbank j = s.pbank j := rfl
@[simp] theorem State.setQueue_accEntry_at (s : State) (i j : Nat) (v : Queue) : (s.setQueue i v).accEntry j = s.accEntry j := rfl
@[simp] theorem State.setQueue_bank_at (s : State) (i j : Nat) (v : Queue) : (s.setQueue i v).bank j = s.bank j := rfl
@[simp] theorem State.setQueue_chain_at (s : State) (i j : Nat) (v : Queue) : (s.setQueue i v).chain j = s.chain j := rfl
@[simp] theorem State.setQueue_stream_at (s : State) (i j : Nat) (v : Queue) : (s.setQueue i v).stream j = s.stream j := rfl
@[simp] theorem State.setQueue_ctx_at (s : State) (i j : Nat) (v : Queue) : (s.setQueue i v).ctx j = s.ctx j := rfl
@[simp] theorem State.setQueue_pfx_at (s : State) (i j : Nat) (v : Queue) : (s.setQueue i v).pfx j = s.pfx j := rfl
@[simp] theorem State.setQueue_adapter_at (s : State) (i j : Nat) (v : Queue) : (s.setQueue i v).adapter j = s.adapter j := rfl
@[simp] theorem State.setQueue_pool_at (s : State) (i j : Nat) (v : Queue) : (s.setQueue i v).pool j = s.pool j := rfl
@[simp] theorem State.setQueue_ckpt_at (s : State) (i j : Nat) (v : Queue) : (s.setQueue i v).ckpt j = s.ckpt j := rfl
@[simp] theorem State.setQueue_port_at (s : State) (i j : Nat) (v : Queue) : (s.setQueue i v).port j = s.port j := rfl
@[simp] theorem State.setQueue_job_at (s : State) (i j : Nat) (v : Queue) : (s.setQueue i v).job j = s.job j := rfl
@[simp] theorem State.setQueue_jobFlags_at (s : State) (i j : Nat) (v : Queue) : (s.setQueue i v).jobFlags j = s.jobFlags j := rfl
@[simp] theorem State.setQueue_bucket_at (s : State) (i j : Nat) (v : Queue) : (s.setQueue i v).bucket j = s.bucket j := rfl
@[simp] theorem State.setQueue_distEntry_at (s : State) (i j : Nat) (v : Queue) : (s.setQueue i v).distEntry j = s.distEntry j := rfl
@[simp] theorem State.setQueue_logEntry_at (s : State) (i j : Nat) (v : Queue) : (s.setQueue i v).logEntry j = s.logEntry j := rfl

/-! ### setGroup -/

@[simp] theorem State.setGroup_same (s : State) (i : Nat) (v : GroupLed) : (s.setGroup i v).group i = v :=
  SMap.get_set_same _ _ _
theorem State.setGroup_other (s : State) (v : GroupLed) {i j : Nat} (h : i ≠ j) : (s.setGroup i v).group j = s.group j :=
  SMap.get_set_other _ _ h
@[simp] theorem State.setGroup_pending (s : State) (i : Nat) (v : GroupLed) : (s.setGroup i v).pending = s.pending := rfl
@[simp] theorem State.setGroup_power (s : State) (i : Nat) (v : GroupLed) : (s.setGroup i v).power = s.power := rfl
@[simp] theorem State.setGroup_time (s : State) (i : Nat) (v : GroupLed) : (s.setGroup i v).time = s.time := rfl
@[simp] theorem State.setGroup_img (s : State) (i : Nat) (v : GroupLed) : (s.setGroup i v).img = s.img := rfl
@[simp] theorem State.setGroup_sec (s : State) (i : Nat) (v : GroupLed) : (s.setGroup i v).sec = s.sec := rfl
@[simp] theorem State.setGroup_store (s : State) (i : Nat) (v : GroupLed) : (s.setGroup i v).store = s.store := rfl
@[simp] theorem State.setGroup_stores (s : State) (i : Nat) (v : GroupLed) : (s.setGroup i v).stores = s.stores := rfl
@[simp] theorem State.setGroup_pair (s : State) (i : Nat) (v : GroupLed) : (s.setGroup i v).pair = s.pair := rfl
@[simp] theorem State.setGroup_gHold (s : State) (i : Nat) (v : GroupLed) : (s.setGroup i v).gHold = s.gHold := rfl
@[simp] theorem State.setGroup_groupBits (s : State) (i : Nat) (v : GroupLed) : (s.setGroup i v).groupBits = s.groupBits := rfl
@[simp] theorem State.setGroup_shardTable (s : State) (i : Nat) (v : GroupLed) : (s.setGroup i v).shardTable = s.shardTable := rfl
@[simp] theorem State.setGroup_pressCode (s : State) (i : Nat) (v : GroupLed) : (s.setGroup i v).pressCode = s.pressCode := rfl
@[simp] theorem State.setGroup_pressIndex (s : State) (i : Nat) (v : GroupLed) : (s.setGroup i v).pressIndex = s.pressIndex := rfl
@[simp] theorem State.setGroup_resendRefused (s : State) (i : Nat) (v : GroupLed) : (s.setGroup i v).resendRefused = s.resendRefused := rfl
@[simp] theorem State.setGroup_msixOut (s : State) (i : Nat) (v : GroupLed) : (s.setGroup i v).msixOut = s.msixOut := rfl
@[simp] theorem State.setGroup_troroikOut (s : State) (i : Nat) (v : GroupLed) : (s.setGroup i v).troroikOut = s.troroikOut := rfl
@[simp] theorem State.setGroup_grants (s : State) (i : Nat) (v : GroupLed) : (s.setGroup i v).grants = s.grants := rfl
@[simp] theorem State.setGroup_lastGrant (s : State) (i : Nat) (v : GroupLed) : (s.setGroup i v).lastGrant = s.lastGrant := rfl
@[simp] theorem State.setGroup_free (s : State) (i : Nat) (v : GroupLed) : (s.setGroup i v).free = s.free := rfl
@[simp] theorem State.setGroup_die_at (s : State) (i j : Nat) (v : GroupLed) : (s.setGroup i v).die j = s.die j := rfl
@[simp] theorem State.setGroup_queue_at (s : State) (i j : Nat) (v : GroupLed) : (s.setGroup i v).queue j = s.queue j := rfl
@[simp] theorem State.setGroup_src_at (s : State) (i j : Nat) (v : GroupLed) : (s.setGroup i v).src j = s.src j := rfl
@[simp] theorem State.setGroup_msixOf_at (s : State) (i j : Nat) (v : GroupLed) : (s.setGroup i v).msixOf j = s.msixOf j := rfl
@[simp] theorem State.setGroup_block_at (s : State) (i j : Nat) (v : GroupLed) : (s.setGroup i v).block j = s.block j := rfl
@[simp] theorem State.setGroup_vatByte_at (s : State) (i j : Nat) (v : GroupLed) : (s.setGroup i v).vatByte j = s.vatByte j := rfl
@[simp] theorem State.setGroup_vatCondAt_at (s : State) (i j : Nat) (v : GroupLed) : (s.setGroup i v).vatCondAt j = s.vatCondAt j := rfl
@[simp] theorem State.setGroup_hbmByte_at (s : State) (i j : Nat) (v : GroupLed) : (s.setGroup i v).hbmByte j = s.hbmByte j := rfl
@[simp] theorem State.setGroup_tag_at (s : State) (i j : Nat) (v : GroupLed) : (s.setGroup i v).tag j = s.tag j := rfl
@[simp] theorem State.setGroup_hbmCondAt_at (s : State) (i j : Nat) (v : GroupLed) : (s.setGroup i v).hbmCondAt j = s.hbmCondAt j := rfl
@[simp] theorem State.setGroup_hostByte_at (s : State) (i j : Nat) (v : GroupLed) : (s.setGroup i v).hostByte j = s.hostByte j := rfl
@[simp] theorem State.setGroup_flashOf_at (s : State) (i j : Nat) (v : GroupLed) : (s.setGroup i v).flashOf j = s.flashOf j := rfl
@[simp] theorem State.setGroup_cell_at (s : State) (i j : Nat) (v : GroupLed) : (s.setGroup i v).cell j = s.cell j := rfl
@[simp] theorem State.setGroup_shadow_at (s : State) (i j : Nat) (v : GroupLed) : (s.setGroup i v).shadow j = s.shadow j := rfl
@[simp] theorem State.setGroup_pbank_at (s : State) (i j : Nat) (v : GroupLed) : (s.setGroup i v).pbank j = s.pbank j := rfl
@[simp] theorem State.setGroup_accEntry_at (s : State) (i j : Nat) (v : GroupLed) : (s.setGroup i v).accEntry j = s.accEntry j := rfl
@[simp] theorem State.setGroup_bank_at (s : State) (i j : Nat) (v : GroupLed) : (s.setGroup i v).bank j = s.bank j := rfl
@[simp] theorem State.setGroup_chain_at (s : State) (i j : Nat) (v : GroupLed) : (s.setGroup i v).chain j = s.chain j := rfl
@[simp] theorem State.setGroup_stream_at (s : State) (i j : Nat) (v : GroupLed) : (s.setGroup i v).stream j = s.stream j := rfl
@[simp] theorem State.setGroup_ctx_at (s : State) (i j : Nat) (v : GroupLed) : (s.setGroup i v).ctx j = s.ctx j := rfl
@[simp] theorem State.setGroup_pfx_at (s : State) (i j : Nat) (v : GroupLed) : (s.setGroup i v).pfx j = s.pfx j := rfl
@[simp] theorem State.setGroup_adapter_at (s : State) (i j : Nat) (v : GroupLed) : (s.setGroup i v).adapter j = s.adapter j := rfl
@[simp] theorem State.setGroup_pool_at (s : State) (i j : Nat) (v : GroupLed) : (s.setGroup i v).pool j = s.pool j := rfl
@[simp] theorem State.setGroup_ckpt_at (s : State) (i j : Nat) (v : GroupLed) : (s.setGroup i v).ckpt j = s.ckpt j := rfl
@[simp] theorem State.setGroup_port_at (s : State) (i j : Nat) (v : GroupLed) : (s.setGroup i v).port j = s.port j := rfl
@[simp] theorem State.setGroup_job_at (s : State) (i j : Nat) (v : GroupLed) : (s.setGroup i v).job j = s.job j := rfl
@[simp] theorem State.setGroup_jobFlags_at (s : State) (i j : Nat) (v : GroupLed) : (s.setGroup i v).jobFlags j = s.jobFlags j := rfl
@[simp] theorem State.setGroup_bucket_at (s : State) (i j : Nat) (v : GroupLed) : (s.setGroup i v).bucket j = s.bucket j := rfl
@[simp] theorem State.setGroup_distEntry_at (s : State) (i j : Nat) (v : GroupLed) : (s.setGroup i v).distEntry j = s.distEntry j := rfl
@[simp] theorem State.setGroup_logEntry_at (s : State) (i j : Nat) (v : GroupLed) : (s.setGroup i v).logEntry j = s.logEntry j := rfl

/-! ### setSrc -/

@[simp] theorem State.setSrc_same (s : State) (i : Nat) (v : Source) : (s.setSrc i v).src i = v :=
  SMap.get_set_same _ _ _
theorem State.setSrc_other (s : State) (v : Source) {i j : Nat} (h : i ≠ j) : (s.setSrc i v).src j = s.src j :=
  SMap.get_set_other _ _ h
@[simp] theorem State.setSrc_pending (s : State) (i : Nat) (v : Source) : (s.setSrc i v).pending = s.pending := rfl
@[simp] theorem State.setSrc_power (s : State) (i : Nat) (v : Source) : (s.setSrc i v).power = s.power := rfl
@[simp] theorem State.setSrc_time (s : State) (i : Nat) (v : Source) : (s.setSrc i v).time = s.time := rfl
@[simp] theorem State.setSrc_img (s : State) (i : Nat) (v : Source) : (s.setSrc i v).img = s.img := rfl
@[simp] theorem State.setSrc_sec (s : State) (i : Nat) (v : Source) : (s.setSrc i v).sec = s.sec := rfl
@[simp] theorem State.setSrc_store (s : State) (i : Nat) (v : Source) : (s.setSrc i v).store = s.store := rfl
@[simp] theorem State.setSrc_stores (s : State) (i : Nat) (v : Source) : (s.setSrc i v).stores = s.stores := rfl
@[simp] theorem State.setSrc_pair (s : State) (i : Nat) (v : Source) : (s.setSrc i v).pair = s.pair := rfl
@[simp] theorem State.setSrc_gHold (s : State) (i : Nat) (v : Source) : (s.setSrc i v).gHold = s.gHold := rfl
@[simp] theorem State.setSrc_groupBits (s : State) (i : Nat) (v : Source) : (s.setSrc i v).groupBits = s.groupBits := rfl
@[simp] theorem State.setSrc_shardTable (s : State) (i : Nat) (v : Source) : (s.setSrc i v).shardTable = s.shardTable := rfl
@[simp] theorem State.setSrc_pressCode (s : State) (i : Nat) (v : Source) : (s.setSrc i v).pressCode = s.pressCode := rfl
@[simp] theorem State.setSrc_pressIndex (s : State) (i : Nat) (v : Source) : (s.setSrc i v).pressIndex = s.pressIndex := rfl
@[simp] theorem State.setSrc_resendRefused (s : State) (i : Nat) (v : Source) : (s.setSrc i v).resendRefused = s.resendRefused := rfl
@[simp] theorem State.setSrc_msixOut (s : State) (i : Nat) (v : Source) : (s.setSrc i v).msixOut = s.msixOut := rfl
@[simp] theorem State.setSrc_troroikOut (s : State) (i : Nat) (v : Source) : (s.setSrc i v).troroikOut = s.troroikOut := rfl
@[simp] theorem State.setSrc_grants (s : State) (i : Nat) (v : Source) : (s.setSrc i v).grants = s.grants := rfl
@[simp] theorem State.setSrc_lastGrant (s : State) (i : Nat) (v : Source) : (s.setSrc i v).lastGrant = s.lastGrant := rfl
@[simp] theorem State.setSrc_free (s : State) (i : Nat) (v : Source) : (s.setSrc i v).free = s.free := rfl
@[simp] theorem State.setSrc_die_at (s : State) (i j : Nat) (v : Source) : (s.setSrc i v).die j = s.die j := rfl
@[simp] theorem State.setSrc_queue_at (s : State) (i j : Nat) (v : Source) : (s.setSrc i v).queue j = s.queue j := rfl
@[simp] theorem State.setSrc_group_at (s : State) (i j : Nat) (v : Source) : (s.setSrc i v).group j = s.group j := rfl
@[simp] theorem State.setSrc_msixOf_at (s : State) (i j : Nat) (v : Source) : (s.setSrc i v).msixOf j = s.msixOf j := rfl
@[simp] theorem State.setSrc_block_at (s : State) (i j : Nat) (v : Source) : (s.setSrc i v).block j = s.block j := rfl
@[simp] theorem State.setSrc_vatByte_at (s : State) (i j : Nat) (v : Source) : (s.setSrc i v).vatByte j = s.vatByte j := rfl
@[simp] theorem State.setSrc_vatCondAt_at (s : State) (i j : Nat) (v : Source) : (s.setSrc i v).vatCondAt j = s.vatCondAt j := rfl
@[simp] theorem State.setSrc_hbmByte_at (s : State) (i j : Nat) (v : Source) : (s.setSrc i v).hbmByte j = s.hbmByte j := rfl
@[simp] theorem State.setSrc_tag_at (s : State) (i j : Nat) (v : Source) : (s.setSrc i v).tag j = s.tag j := rfl
@[simp] theorem State.setSrc_hbmCondAt_at (s : State) (i j : Nat) (v : Source) : (s.setSrc i v).hbmCondAt j = s.hbmCondAt j := rfl
@[simp] theorem State.setSrc_hostByte_at (s : State) (i j : Nat) (v : Source) : (s.setSrc i v).hostByte j = s.hostByte j := rfl
@[simp] theorem State.setSrc_flashOf_at (s : State) (i j : Nat) (v : Source) : (s.setSrc i v).flashOf j = s.flashOf j := rfl
@[simp] theorem State.setSrc_cell_at (s : State) (i j : Nat) (v : Source) : (s.setSrc i v).cell j = s.cell j := rfl
@[simp] theorem State.setSrc_shadow_at (s : State) (i j : Nat) (v : Source) : (s.setSrc i v).shadow j = s.shadow j := rfl
@[simp] theorem State.setSrc_pbank_at (s : State) (i j : Nat) (v : Source) : (s.setSrc i v).pbank j = s.pbank j := rfl
@[simp] theorem State.setSrc_accEntry_at (s : State) (i j : Nat) (v : Source) : (s.setSrc i v).accEntry j = s.accEntry j := rfl
@[simp] theorem State.setSrc_bank_at (s : State) (i j : Nat) (v : Source) : (s.setSrc i v).bank j = s.bank j := rfl
@[simp] theorem State.setSrc_chain_at (s : State) (i j : Nat) (v : Source) : (s.setSrc i v).chain j = s.chain j := rfl
@[simp] theorem State.setSrc_stream_at (s : State) (i j : Nat) (v : Source) : (s.setSrc i v).stream j = s.stream j := rfl
@[simp] theorem State.setSrc_ctx_at (s : State) (i j : Nat) (v : Source) : (s.setSrc i v).ctx j = s.ctx j := rfl
@[simp] theorem State.setSrc_pfx_at (s : State) (i j : Nat) (v : Source) : (s.setSrc i v).pfx j = s.pfx j := rfl
@[simp] theorem State.setSrc_adapter_at (s : State) (i j : Nat) (v : Source) : (s.setSrc i v).adapter j = s.adapter j := rfl
@[simp] theorem State.setSrc_pool_at (s : State) (i j : Nat) (v : Source) : (s.setSrc i v).pool j = s.pool j := rfl
@[simp] theorem State.setSrc_ckpt_at (s : State) (i j : Nat) (v : Source) : (s.setSrc i v).ckpt j = s.ckpt j := rfl
@[simp] theorem State.setSrc_port_at (s : State) (i j : Nat) (v : Source) : (s.setSrc i v).port j = s.port j := rfl
@[simp] theorem State.setSrc_job_at (s : State) (i j : Nat) (v : Source) : (s.setSrc i v).job j = s.job j := rfl
@[simp] theorem State.setSrc_jobFlags_at (s : State) (i j : Nat) (v : Source) : (s.setSrc i v).jobFlags j = s.jobFlags j := rfl
@[simp] theorem State.setSrc_bucket_at (s : State) (i j : Nat) (v : Source) : (s.setSrc i v).bucket j = s.bucket j := rfl
@[simp] theorem State.setSrc_distEntry_at (s : State) (i j : Nat) (v : Source) : (s.setSrc i v).distEntry j = s.distEntry j := rfl
@[simp] theorem State.setSrc_logEntry_at (s : State) (i j : Nat) (v : Source) : (s.setSrc i v).logEntry j = s.logEntry j := rfl

/-! ### setMsixOf -/

@[simp] theorem State.setMsixOf_same (s : State) (i : Nat) (v : Msix) : (s.setMsixOf i v).msixOf i = v :=
  SMap.get_set_same _ _ _
theorem State.setMsixOf_other (s : State) (v : Msix) {i j : Nat} (h : i ≠ j) : (s.setMsixOf i v).msixOf j = s.msixOf j :=
  SMap.get_set_other _ _ h
@[simp] theorem State.setMsixOf_pending (s : State) (i : Nat) (v : Msix) : (s.setMsixOf i v).pending = s.pending := rfl
@[simp] theorem State.setMsixOf_power (s : State) (i : Nat) (v : Msix) : (s.setMsixOf i v).power = s.power := rfl
@[simp] theorem State.setMsixOf_time (s : State) (i : Nat) (v : Msix) : (s.setMsixOf i v).time = s.time := rfl
@[simp] theorem State.setMsixOf_img (s : State) (i : Nat) (v : Msix) : (s.setMsixOf i v).img = s.img := rfl
@[simp] theorem State.setMsixOf_sec (s : State) (i : Nat) (v : Msix) : (s.setMsixOf i v).sec = s.sec := rfl
@[simp] theorem State.setMsixOf_store (s : State) (i : Nat) (v : Msix) : (s.setMsixOf i v).store = s.store := rfl
@[simp] theorem State.setMsixOf_stores (s : State) (i : Nat) (v : Msix) : (s.setMsixOf i v).stores = s.stores := rfl
@[simp] theorem State.setMsixOf_pair (s : State) (i : Nat) (v : Msix) : (s.setMsixOf i v).pair = s.pair := rfl
@[simp] theorem State.setMsixOf_gHold (s : State) (i : Nat) (v : Msix) : (s.setMsixOf i v).gHold = s.gHold := rfl
@[simp] theorem State.setMsixOf_groupBits (s : State) (i : Nat) (v : Msix) : (s.setMsixOf i v).groupBits = s.groupBits := rfl
@[simp] theorem State.setMsixOf_shardTable (s : State) (i : Nat) (v : Msix) : (s.setMsixOf i v).shardTable = s.shardTable := rfl
@[simp] theorem State.setMsixOf_pressCode (s : State) (i : Nat) (v : Msix) : (s.setMsixOf i v).pressCode = s.pressCode := rfl
@[simp] theorem State.setMsixOf_pressIndex (s : State) (i : Nat) (v : Msix) : (s.setMsixOf i v).pressIndex = s.pressIndex := rfl
@[simp] theorem State.setMsixOf_resendRefused (s : State) (i : Nat) (v : Msix) : (s.setMsixOf i v).resendRefused = s.resendRefused := rfl
@[simp] theorem State.setMsixOf_msixOut (s : State) (i : Nat) (v : Msix) : (s.setMsixOf i v).msixOut = s.msixOut := rfl
@[simp] theorem State.setMsixOf_troroikOut (s : State) (i : Nat) (v : Msix) : (s.setMsixOf i v).troroikOut = s.troroikOut := rfl
@[simp] theorem State.setMsixOf_grants (s : State) (i : Nat) (v : Msix) : (s.setMsixOf i v).grants = s.grants := rfl
@[simp] theorem State.setMsixOf_lastGrant (s : State) (i : Nat) (v : Msix) : (s.setMsixOf i v).lastGrant = s.lastGrant := rfl
@[simp] theorem State.setMsixOf_free (s : State) (i : Nat) (v : Msix) : (s.setMsixOf i v).free = s.free := rfl
@[simp] theorem State.setMsixOf_die_at (s : State) (i j : Nat) (v : Msix) : (s.setMsixOf i v).die j = s.die j := rfl
@[simp] theorem State.setMsixOf_queue_at (s : State) (i j : Nat) (v : Msix) : (s.setMsixOf i v).queue j = s.queue j := rfl
@[simp] theorem State.setMsixOf_group_at (s : State) (i j : Nat) (v : Msix) : (s.setMsixOf i v).group j = s.group j := rfl
@[simp] theorem State.setMsixOf_src_at (s : State) (i j : Nat) (v : Msix) : (s.setMsixOf i v).src j = s.src j := rfl
@[simp] theorem State.setMsixOf_block_at (s : State) (i j : Nat) (v : Msix) : (s.setMsixOf i v).block j = s.block j := rfl
@[simp] theorem State.setMsixOf_vatByte_at (s : State) (i j : Nat) (v : Msix) : (s.setMsixOf i v).vatByte j = s.vatByte j := rfl
@[simp] theorem State.setMsixOf_vatCondAt_at (s : State) (i j : Nat) (v : Msix) : (s.setMsixOf i v).vatCondAt j = s.vatCondAt j := rfl
@[simp] theorem State.setMsixOf_hbmByte_at (s : State) (i j : Nat) (v : Msix) : (s.setMsixOf i v).hbmByte j = s.hbmByte j := rfl
@[simp] theorem State.setMsixOf_tag_at (s : State) (i j : Nat) (v : Msix) : (s.setMsixOf i v).tag j = s.tag j := rfl
@[simp] theorem State.setMsixOf_hbmCondAt_at (s : State) (i j : Nat) (v : Msix) : (s.setMsixOf i v).hbmCondAt j = s.hbmCondAt j := rfl
@[simp] theorem State.setMsixOf_hostByte_at (s : State) (i j : Nat) (v : Msix) : (s.setMsixOf i v).hostByte j = s.hostByte j := rfl
@[simp] theorem State.setMsixOf_flashOf_at (s : State) (i j : Nat) (v : Msix) : (s.setMsixOf i v).flashOf j = s.flashOf j := rfl
@[simp] theorem State.setMsixOf_cell_at (s : State) (i j : Nat) (v : Msix) : (s.setMsixOf i v).cell j = s.cell j := rfl
@[simp] theorem State.setMsixOf_shadow_at (s : State) (i j : Nat) (v : Msix) : (s.setMsixOf i v).shadow j = s.shadow j := rfl
@[simp] theorem State.setMsixOf_pbank_at (s : State) (i j : Nat) (v : Msix) : (s.setMsixOf i v).pbank j = s.pbank j := rfl
@[simp] theorem State.setMsixOf_accEntry_at (s : State) (i j : Nat) (v : Msix) : (s.setMsixOf i v).accEntry j = s.accEntry j := rfl
@[simp] theorem State.setMsixOf_bank_at (s : State) (i j : Nat) (v : Msix) : (s.setMsixOf i v).bank j = s.bank j := rfl
@[simp] theorem State.setMsixOf_chain_at (s : State) (i j : Nat) (v : Msix) : (s.setMsixOf i v).chain j = s.chain j := rfl
@[simp] theorem State.setMsixOf_stream_at (s : State) (i j : Nat) (v : Msix) : (s.setMsixOf i v).stream j = s.stream j := rfl
@[simp] theorem State.setMsixOf_ctx_at (s : State) (i j : Nat) (v : Msix) : (s.setMsixOf i v).ctx j = s.ctx j := rfl
@[simp] theorem State.setMsixOf_pfx_at (s : State) (i j : Nat) (v : Msix) : (s.setMsixOf i v).pfx j = s.pfx j := rfl
@[simp] theorem State.setMsixOf_adapter_at (s : State) (i j : Nat) (v : Msix) : (s.setMsixOf i v).adapter j = s.adapter j := rfl
@[simp] theorem State.setMsixOf_pool_at (s : State) (i j : Nat) (v : Msix) : (s.setMsixOf i v).pool j = s.pool j := rfl
@[simp] theorem State.setMsixOf_ckpt_at (s : State) (i j : Nat) (v : Msix) : (s.setMsixOf i v).ckpt j = s.ckpt j := rfl
@[simp] theorem State.setMsixOf_port_at (s : State) (i j : Nat) (v : Msix) : (s.setMsixOf i v).port j = s.port j := rfl
@[simp] theorem State.setMsixOf_job_at (s : State) (i j : Nat) (v : Msix) : (s.setMsixOf i v).job j = s.job j := rfl
@[simp] theorem State.setMsixOf_jobFlags_at (s : State) (i j : Nat) (v : Msix) : (s.setMsixOf i v).jobFlags j = s.jobFlags j := rfl
@[simp] theorem State.setMsixOf_bucket_at (s : State) (i j : Nat) (v : Msix) : (s.setMsixOf i v).bucket j = s.bucket j := rfl
@[simp] theorem State.setMsixOf_distEntry_at (s : State) (i j : Nat) (v : Msix) : (s.setMsixOf i v).distEntry j = s.distEntry j := rfl
@[simp] theorem State.setMsixOf_logEntry_at (s : State) (i j : Nat) (v : Msix) : (s.setMsixOf i v).logEntry j = s.logEntry j := rfl

/-! ### setBlock -/

@[simp] theorem State.setBlock_same (s : State) (i : Nat) (v : Block) : (s.setBlock i v).block i = v :=
  SMap.get_set_same _ _ _
theorem State.setBlock_other (s : State) (v : Block) {i j : Nat} (h : i ≠ j) : (s.setBlock i v).block j = s.block j :=
  SMap.get_set_other _ _ h
@[simp] theorem State.setBlock_pending (s : State) (i : Nat) (v : Block) : (s.setBlock i v).pending = s.pending := rfl
@[simp] theorem State.setBlock_power (s : State) (i : Nat) (v : Block) : (s.setBlock i v).power = s.power := rfl
@[simp] theorem State.setBlock_time (s : State) (i : Nat) (v : Block) : (s.setBlock i v).time = s.time := rfl
@[simp] theorem State.setBlock_img (s : State) (i : Nat) (v : Block) : (s.setBlock i v).img = s.img := rfl
@[simp] theorem State.setBlock_sec (s : State) (i : Nat) (v : Block) : (s.setBlock i v).sec = s.sec := rfl
@[simp] theorem State.setBlock_store (s : State) (i : Nat) (v : Block) : (s.setBlock i v).store = s.store := rfl
@[simp] theorem State.setBlock_stores (s : State) (i : Nat) (v : Block) : (s.setBlock i v).stores = s.stores := rfl
@[simp] theorem State.setBlock_pair (s : State) (i : Nat) (v : Block) : (s.setBlock i v).pair = s.pair := rfl
@[simp] theorem State.setBlock_gHold (s : State) (i : Nat) (v : Block) : (s.setBlock i v).gHold = s.gHold := rfl
@[simp] theorem State.setBlock_groupBits (s : State) (i : Nat) (v : Block) : (s.setBlock i v).groupBits = s.groupBits := rfl
@[simp] theorem State.setBlock_shardTable (s : State) (i : Nat) (v : Block) : (s.setBlock i v).shardTable = s.shardTable := rfl
@[simp] theorem State.setBlock_pressCode (s : State) (i : Nat) (v : Block) : (s.setBlock i v).pressCode = s.pressCode := rfl
@[simp] theorem State.setBlock_pressIndex (s : State) (i : Nat) (v : Block) : (s.setBlock i v).pressIndex = s.pressIndex := rfl
@[simp] theorem State.setBlock_resendRefused (s : State) (i : Nat) (v : Block) : (s.setBlock i v).resendRefused = s.resendRefused := rfl
@[simp] theorem State.setBlock_msixOut (s : State) (i : Nat) (v : Block) : (s.setBlock i v).msixOut = s.msixOut := rfl
@[simp] theorem State.setBlock_troroikOut (s : State) (i : Nat) (v : Block) : (s.setBlock i v).troroikOut = s.troroikOut := rfl
@[simp] theorem State.setBlock_grants (s : State) (i : Nat) (v : Block) : (s.setBlock i v).grants = s.grants := rfl
@[simp] theorem State.setBlock_lastGrant (s : State) (i : Nat) (v : Block) : (s.setBlock i v).lastGrant = s.lastGrant := rfl
@[simp] theorem State.setBlock_free (s : State) (i : Nat) (v : Block) : (s.setBlock i v).free = s.free := rfl
@[simp] theorem State.setBlock_die_at (s : State) (i j : Nat) (v : Block) : (s.setBlock i v).die j = s.die j := rfl
@[simp] theorem State.setBlock_queue_at (s : State) (i j : Nat) (v : Block) : (s.setBlock i v).queue j = s.queue j := rfl
@[simp] theorem State.setBlock_group_at (s : State) (i j : Nat) (v : Block) : (s.setBlock i v).group j = s.group j := rfl
@[simp] theorem State.setBlock_src_at (s : State) (i j : Nat) (v : Block) : (s.setBlock i v).src j = s.src j := rfl
@[simp] theorem State.setBlock_msixOf_at (s : State) (i j : Nat) (v : Block) : (s.setBlock i v).msixOf j = s.msixOf j := rfl
@[simp] theorem State.setBlock_vatByte_at (s : State) (i j : Nat) (v : Block) : (s.setBlock i v).vatByte j = s.vatByte j := rfl
@[simp] theorem State.setBlock_vatCondAt_at (s : State) (i j : Nat) (v : Block) : (s.setBlock i v).vatCondAt j = s.vatCondAt j := rfl
@[simp] theorem State.setBlock_hbmByte_at (s : State) (i j : Nat) (v : Block) : (s.setBlock i v).hbmByte j = s.hbmByte j := rfl
@[simp] theorem State.setBlock_tag_at (s : State) (i j : Nat) (v : Block) : (s.setBlock i v).tag j = s.tag j := rfl
@[simp] theorem State.setBlock_hbmCondAt_at (s : State) (i j : Nat) (v : Block) : (s.setBlock i v).hbmCondAt j = s.hbmCondAt j := rfl
@[simp] theorem State.setBlock_hostByte_at (s : State) (i j : Nat) (v : Block) : (s.setBlock i v).hostByte j = s.hostByte j := rfl
@[simp] theorem State.setBlock_flashOf_at (s : State) (i j : Nat) (v : Block) : (s.setBlock i v).flashOf j = s.flashOf j := rfl
@[simp] theorem State.setBlock_cell_at (s : State) (i j : Nat) (v : Block) : (s.setBlock i v).cell j = s.cell j := rfl
@[simp] theorem State.setBlock_shadow_at (s : State) (i j : Nat) (v : Block) : (s.setBlock i v).shadow j = s.shadow j := rfl
@[simp] theorem State.setBlock_pbank_at (s : State) (i j : Nat) (v : Block) : (s.setBlock i v).pbank j = s.pbank j := rfl
@[simp] theorem State.setBlock_accEntry_at (s : State) (i j : Nat) (v : Block) : (s.setBlock i v).accEntry j = s.accEntry j := rfl
@[simp] theorem State.setBlock_bank_at (s : State) (i j : Nat) (v : Block) : (s.setBlock i v).bank j = s.bank j := rfl
@[simp] theorem State.setBlock_chain_at (s : State) (i j : Nat) (v : Block) : (s.setBlock i v).chain j = s.chain j := rfl
@[simp] theorem State.setBlock_stream_at (s : State) (i j : Nat) (v : Block) : (s.setBlock i v).stream j = s.stream j := rfl
@[simp] theorem State.setBlock_ctx_at (s : State) (i j : Nat) (v : Block) : (s.setBlock i v).ctx j = s.ctx j := rfl
@[simp] theorem State.setBlock_pfx_at (s : State) (i j : Nat) (v : Block) : (s.setBlock i v).pfx j = s.pfx j := rfl
@[simp] theorem State.setBlock_adapter_at (s : State) (i j : Nat) (v : Block) : (s.setBlock i v).adapter j = s.adapter j := rfl
@[simp] theorem State.setBlock_pool_at (s : State) (i j : Nat) (v : Block) : (s.setBlock i v).pool j = s.pool j := rfl
@[simp] theorem State.setBlock_ckpt_at (s : State) (i j : Nat) (v : Block) : (s.setBlock i v).ckpt j = s.ckpt j := rfl
@[simp] theorem State.setBlock_port_at (s : State) (i j : Nat) (v : Block) : (s.setBlock i v).port j = s.port j := rfl
@[simp] theorem State.setBlock_job_at (s : State) (i j : Nat) (v : Block) : (s.setBlock i v).job j = s.job j := rfl
@[simp] theorem State.setBlock_jobFlags_at (s : State) (i j : Nat) (v : Block) : (s.setBlock i v).jobFlags j = s.jobFlags j := rfl
@[simp] theorem State.setBlock_bucket_at (s : State) (i j : Nat) (v : Block) : (s.setBlock i v).bucket j = s.bucket j := rfl
@[simp] theorem State.setBlock_distEntry_at (s : State) (i j : Nat) (v : Block) : (s.setBlock i v).distEntry j = s.distEntry j := rfl
@[simp] theorem State.setBlock_logEntry_at (s : State) (i j : Nat) (v : Block) : (s.setBlock i v).logEntry j = s.logEntry j := rfl

/-! ### setVatByte -/

@[simp] theorem State.setVatByte_same (s : State) (i : Nat) (v : Byte) : (s.setVatByte i v).vatByte i = v :=
  SMap.get_set_same _ _ _
theorem State.setVatByte_other (s : State) (v : Byte) {i j : Nat} (h : i ≠ j) : (s.setVatByte i v).vatByte j = s.vatByte j :=
  SMap.get_set_other _ _ h

/-! ### setVatCondAt -/

@[simp] theorem State.setVatCondAt_same (s : State) (i : Nat) (v : Cond) : (s.setVatCondAt i v).vatCondAt i = v :=
  SMap.get_set_same _ _ _
theorem State.setVatCondAt_other (s : State) (v : Cond) {i j : Nat} (h : i ≠ j) : (s.setVatCondAt i v).vatCondAt j = s.vatCondAt j :=
  SMap.get_set_other _ _ h

/-! ### setHbmByte -/

@[simp] theorem State.setHbmByte_same (s : State) (i : Nat) (v : Byte) : (s.setHbmByte i v).hbmByte i = v :=
  SMap.get_set_same _ _ _
theorem State.setHbmByte_other (s : State) (v : Byte) {i j : Nat} (h : i ≠ j) : (s.setHbmByte i v).hbmByte j = s.hbmByte j :=
  SMap.get_set_other _ _ h

/-! ### setTag -/

@[simp] theorem State.setTag_same (s : State) (i : Nat) (v : PageTag) : (s.setTag i v).tag i = v :=
  SMap.get_set_same _ _ _
theorem State.setTag_other (s : State) (v : PageTag) {i j : Nat} (h : i ≠ j) : (s.setTag i v).tag j = s.tag j :=
  SMap.get_set_other _ _ h
@[simp] theorem State.setTag_pending (s : State) (i : Nat) (v : PageTag) : (s.setTag i v).pending = s.pending := rfl
@[simp] theorem State.setTag_power (s : State) (i : Nat) (v : PageTag) : (s.setTag i v).power = s.power := rfl
@[simp] theorem State.setTag_time (s : State) (i : Nat) (v : PageTag) : (s.setTag i v).time = s.time := rfl
@[simp] theorem State.setTag_img (s : State) (i : Nat) (v : PageTag) : (s.setTag i v).img = s.img := rfl
@[simp] theorem State.setTag_sec (s : State) (i : Nat) (v : PageTag) : (s.setTag i v).sec = s.sec := rfl
@[simp] theorem State.setTag_store (s : State) (i : Nat) (v : PageTag) : (s.setTag i v).store = s.store := rfl
@[simp] theorem State.setTag_stores (s : State) (i : Nat) (v : PageTag) : (s.setTag i v).stores = s.stores := rfl
@[simp] theorem State.setTag_pair (s : State) (i : Nat) (v : PageTag) : (s.setTag i v).pair = s.pair := rfl
@[simp] theorem State.setTag_gHold (s : State) (i : Nat) (v : PageTag) : (s.setTag i v).gHold = s.gHold := rfl
@[simp] theorem State.setTag_groupBits (s : State) (i : Nat) (v : PageTag) : (s.setTag i v).groupBits = s.groupBits := rfl
@[simp] theorem State.setTag_shardTable (s : State) (i : Nat) (v : PageTag) : (s.setTag i v).shardTable = s.shardTable := rfl
@[simp] theorem State.setTag_pressCode (s : State) (i : Nat) (v : PageTag) : (s.setTag i v).pressCode = s.pressCode := rfl
@[simp] theorem State.setTag_pressIndex (s : State) (i : Nat) (v : PageTag) : (s.setTag i v).pressIndex = s.pressIndex := rfl
@[simp] theorem State.setTag_resendRefused (s : State) (i : Nat) (v : PageTag) : (s.setTag i v).resendRefused = s.resendRefused := rfl
@[simp] theorem State.setTag_msixOut (s : State) (i : Nat) (v : PageTag) : (s.setTag i v).msixOut = s.msixOut := rfl
@[simp] theorem State.setTag_troroikOut (s : State) (i : Nat) (v : PageTag) : (s.setTag i v).troroikOut = s.troroikOut := rfl
@[simp] theorem State.setTag_grants (s : State) (i : Nat) (v : PageTag) : (s.setTag i v).grants = s.grants := rfl
@[simp] theorem State.setTag_lastGrant (s : State) (i : Nat) (v : PageTag) : (s.setTag i v).lastGrant = s.lastGrant := rfl
@[simp] theorem State.setTag_free (s : State) (i : Nat) (v : PageTag) : (s.setTag i v).free = s.free := rfl
@[simp] theorem State.setTag_die_at (s : State) (i j : Nat) (v : PageTag) : (s.setTag i v).die j = s.die j := rfl
@[simp] theorem State.setTag_queue_at (s : State) (i j : Nat) (v : PageTag) : (s.setTag i v).queue j = s.queue j := rfl
@[simp] theorem State.setTag_group_at (s : State) (i j : Nat) (v : PageTag) : (s.setTag i v).group j = s.group j := rfl
@[simp] theorem State.setTag_src_at (s : State) (i j : Nat) (v : PageTag) : (s.setTag i v).src j = s.src j := rfl
@[simp] theorem State.setTag_msixOf_at (s : State) (i j : Nat) (v : PageTag) : (s.setTag i v).msixOf j = s.msixOf j := rfl
@[simp] theorem State.setTag_block_at (s : State) (i j : Nat) (v : PageTag) : (s.setTag i v).block j = s.block j := rfl
@[simp] theorem State.setTag_vatByte_at (s : State) (i j : Nat) (v : PageTag) : (s.setTag i v).vatByte j = s.vatByte j := rfl
@[simp] theorem State.setTag_vatCondAt_at (s : State) (i j : Nat) (v : PageTag) : (s.setTag i v).vatCondAt j = s.vatCondAt j := rfl
@[simp] theorem State.setTag_hbmByte_at (s : State) (i j : Nat) (v : PageTag) : (s.setTag i v).hbmByte j = s.hbmByte j := rfl
@[simp] theorem State.setTag_hbmCondAt_at (s : State) (i j : Nat) (v : PageTag) : (s.setTag i v).hbmCondAt j = s.hbmCondAt j := rfl
@[simp] theorem State.setTag_hostByte_at (s : State) (i j : Nat) (v : PageTag) : (s.setTag i v).hostByte j = s.hostByte j := rfl
@[simp] theorem State.setTag_flashOf_at (s : State) (i j : Nat) (v : PageTag) : (s.setTag i v).flashOf j = s.flashOf j := rfl
@[simp] theorem State.setTag_cell_at (s : State) (i j : Nat) (v : PageTag) : (s.setTag i v).cell j = s.cell j := rfl
@[simp] theorem State.setTag_shadow_at (s : State) (i j : Nat) (v : PageTag) : (s.setTag i v).shadow j = s.shadow j := rfl
@[simp] theorem State.setTag_pbank_at (s : State) (i j : Nat) (v : PageTag) : (s.setTag i v).pbank j = s.pbank j := rfl
@[simp] theorem State.setTag_accEntry_at (s : State) (i j : Nat) (v : PageTag) : (s.setTag i v).accEntry j = s.accEntry j := rfl
@[simp] theorem State.setTag_bank_at (s : State) (i j : Nat) (v : PageTag) : (s.setTag i v).bank j = s.bank j := rfl
@[simp] theorem State.setTag_chain_at (s : State) (i j : Nat) (v : PageTag) : (s.setTag i v).chain j = s.chain j := rfl
@[simp] theorem State.setTag_stream_at (s : State) (i j : Nat) (v : PageTag) : (s.setTag i v).stream j = s.stream j := rfl
@[simp] theorem State.setTag_ctx_at (s : State) (i j : Nat) (v : PageTag) : (s.setTag i v).ctx j = s.ctx j := rfl
@[simp] theorem State.setTag_pfx_at (s : State) (i j : Nat) (v : PageTag) : (s.setTag i v).pfx j = s.pfx j := rfl
@[simp] theorem State.setTag_adapter_at (s : State) (i j : Nat) (v : PageTag) : (s.setTag i v).adapter j = s.adapter j := rfl
@[simp] theorem State.setTag_pool_at (s : State) (i j : Nat) (v : PageTag) : (s.setTag i v).pool j = s.pool j := rfl
@[simp] theorem State.setTag_ckpt_at (s : State) (i j : Nat) (v : PageTag) : (s.setTag i v).ckpt j = s.ckpt j := rfl
@[simp] theorem State.setTag_port_at (s : State) (i j : Nat) (v : PageTag) : (s.setTag i v).port j = s.port j := rfl
@[simp] theorem State.setTag_job_at (s : State) (i j : Nat) (v : PageTag) : (s.setTag i v).job j = s.job j := rfl
@[simp] theorem State.setTag_jobFlags_at (s : State) (i j : Nat) (v : PageTag) : (s.setTag i v).jobFlags j = s.jobFlags j := rfl
@[simp] theorem State.setTag_bucket_at (s : State) (i j : Nat) (v : PageTag) : (s.setTag i v).bucket j = s.bucket j := rfl
@[simp] theorem State.setTag_distEntry_at (s : State) (i j : Nat) (v : PageTag) : (s.setTag i v).distEntry j = s.distEntry j := rfl
@[simp] theorem State.setTag_logEntry_at (s : State) (i j : Nat) (v : PageTag) : (s.setTag i v).logEntry j = s.logEntry j := rfl

/-! ### setHbmCondAt -/

@[simp] theorem State.setHbmCondAt_same (s : State) (i : Nat) (v : Cond) : (s.setHbmCondAt i v).hbmCondAt i = v :=
  SMap.get_set_same _ _ _
theorem State.setHbmCondAt_other (s : State) (v : Cond) {i j : Nat} (h : i ≠ j) : (s.setHbmCondAt i v).hbmCondAt j = s.hbmCondAt j :=
  SMap.get_set_other _ _ h

/-! ### setHostByte -/

@[simp] theorem State.setHostByte_same (s : State) (i : Nat) (v : Byte) : (s.setHostByte i v).hostByte i = v :=
  SMap.get_set_same _ _ _
theorem State.setHostByte_other (s : State) (v : Byte) {i j : Nat} (h : i ≠ j) : (s.setHostByte i v).hostByte j = s.hostByte j :=
  SMap.get_set_other _ _ h

/-! ### setFlash -/

@[simp] theorem State.setFlash_same (s : State) (i : Nat) (v : FlashContent) : (s.setFlash i v).flashOf i = v :=
  SMap.get_set_same _ _ _
theorem State.setFlash_other (s : State) (v : FlashContent) {i j : Nat} (h : i ≠ j) : (s.setFlash i v).flashOf j = s.flashOf j :=
  SMap.get_set_other _ _ h

/-! ### setCell -/

@[simp] theorem State.setCell_same (s : State) (i : Nat) (v : Nat × Nat) : (s.setCell i v).cell i = v :=
  SMap.get_set_same _ _ _
theorem State.setCell_other (s : State) (v : Nat × Nat) {i j : Nat} (h : i ≠ j) : (s.setCell i v).cell j = s.cell j :=
  SMap.get_set_other _ _ h

/-! ### setShadow -/

@[simp] theorem State.setShadow_same (s : State) (i : Nat) (v : Nat × Nat) : (s.setShadow i v).shadow i = v :=
  SMap.get_set_same _ _ _
theorem State.setShadow_other (s : State) (v : Nat × Nat) {i j : Nat} (h : i ≠ j) : (s.setShadow i v).shadow j = s.shadow j :=
  SMap.get_set_other _ _ h

/-! ### setPbank -/

@[simp] theorem State.setPbank_same (s : State) (i : Nat) (v : PBank) : (s.setPbank i v).pbank i = v :=
  SMap.get_set_same _ _ _
theorem State.setPbank_other (s : State) (v : PBank) {i j : Nat} (h : i ≠ j) : (s.setPbank i v).pbank j = s.pbank j :=
  SMap.get_set_other _ _ h

/-! ### setAccEntry -/

@[simp] theorem State.setAccEntry_same (s : State) (i : Nat) (v : BitVec 32) : (s.setAccEntry i v).accEntry i = v :=
  SMap.get_set_same _ _ _
theorem State.setAccEntry_other (s : State) (v : BitVec 32) {i j : Nat} (h : i ≠ j) : (s.setAccEntry i v).accEntry j = s.accEntry j :=
  SMap.get_set_other _ _ h

/-! ### setBank -/

@[simp] theorem State.setBank_same (s : State) (i : Nat) (v : Bank) : (s.setBank i v).bank i = v :=
  SMap.get_set_same _ _ _
theorem State.setBank_other (s : State) (v : Bank) {i j : Nat} (h : i ≠ j) : (s.setBank i v).bank j = s.bank j :=
  SMap.get_set_other _ _ h

/-! ### setChain -/

@[simp] theorem State.setChain_same (s : State) (i : Nat) (v : Chain) : (s.setChain i v).chain i = v :=
  SMap.get_set_same _ _ _
theorem State.setChain_other (s : State) (v : Chain) {i j : Nat} (h : i ≠ j) : (s.setChain i v).chain j = s.chain j :=
  SMap.get_set_other _ _ h

/-! ### setStream -/

@[simp] theorem State.setStream_same (s : State) (i : Nat) (v : Halves Stream) : (s.setStream i v).stream i = v :=
  SMap.get_set_same _ _ _
theorem State.setStream_other (s : State) (v : Halves Stream) {i j : Nat} (h : i ≠ j) : (s.setStream i v).stream j = s.stream j :=
  SMap.get_set_other _ _ h

/-! ### setCtx -/

@[simp] theorem State.setCtx_same (s : State) (i : Nat) (v : Halves Ctx) : (s.setCtx i v).ctx i = v :=
  SMap.get_set_same _ _ _
theorem State.setCtx_other (s : State) (v : Halves Ctx) {i j : Nat} (h : i ≠ j) : (s.setCtx i v).ctx j = s.ctx j :=
  SMap.get_set_other _ _ h

/-! ### setPfx -/

@[simp] theorem State.setPfx_same (s : State) (i : Nat) (v : Halves Pfx) : (s.setPfx i v).pfx i = v :=
  SMap.get_set_same _ _ _
theorem State.setPfx_other (s : State) (v : Halves Pfx) {i j : Nat} (h : i ≠ j) : (s.setPfx i v).pfx j = s.pfx j :=
  SMap.get_set_other _ _ h

/-! ### setAdapter -/

@[simp] theorem State.setAdapter_same (s : State) (i : Nat) (v : Halves Adapter) : (s.setAdapter i v).adapter i = v :=
  SMap.get_set_same _ _ _
theorem State.setAdapter_other (s : State) (v : Halves Adapter) {i j : Nat} (h : i ≠ j) : (s.setAdapter i v).adapter j = s.adapter j :=
  SMap.get_set_other _ _ h

/-! ### setPool -/

@[simp] theorem State.setPool_same (s : State) (i : Nat) (v : Pool) : (s.setPool i v).pool i = v :=
  SMap.get_set_same _ _ _
theorem State.setPool_other (s : State) (v : Pool) {i j : Nat} (h : i ≠ j) : (s.setPool i v).pool j = s.pool j :=
  SMap.get_set_other _ _ h

/-! ### setCkpt -/

@[simp] theorem State.setCkpt_same (s : State) (i : Nat) (v : CkptSlot) : (s.setCkpt i v).ckpt i = v :=
  SMap.get_set_same _ _ _
theorem State.setCkpt_other (s : State) (v : CkptSlot) {i j : Nat} (h : i ≠ j) : (s.setCkpt i v).ckpt j = s.ckpt j :=
  SMap.get_set_other _ _ h
@[simp] theorem State.setCkpt_pending (s : State) (i : Nat) (v : CkptSlot) : (s.setCkpt i v).pending = s.pending := rfl
@[simp] theorem State.setCkpt_power (s : State) (i : Nat) (v : CkptSlot) : (s.setCkpt i v).power = s.power := rfl
@[simp] theorem State.setCkpt_time (s : State) (i : Nat) (v : CkptSlot) : (s.setCkpt i v).time = s.time := rfl
@[simp] theorem State.setCkpt_img (s : State) (i : Nat) (v : CkptSlot) : (s.setCkpt i v).img = s.img := rfl
@[simp] theorem State.setCkpt_sec (s : State) (i : Nat) (v : CkptSlot) : (s.setCkpt i v).sec = s.sec := rfl
@[simp] theorem State.setCkpt_store (s : State) (i : Nat) (v : CkptSlot) : (s.setCkpt i v).store = s.store := rfl
@[simp] theorem State.setCkpt_stores (s : State) (i : Nat) (v : CkptSlot) : (s.setCkpt i v).stores = s.stores := rfl
@[simp] theorem State.setCkpt_pair (s : State) (i : Nat) (v : CkptSlot) : (s.setCkpt i v).pair = s.pair := rfl
@[simp] theorem State.setCkpt_gHold (s : State) (i : Nat) (v : CkptSlot) : (s.setCkpt i v).gHold = s.gHold := rfl
@[simp] theorem State.setCkpt_groupBits (s : State) (i : Nat) (v : CkptSlot) : (s.setCkpt i v).groupBits = s.groupBits := rfl
@[simp] theorem State.setCkpt_shardTable (s : State) (i : Nat) (v : CkptSlot) : (s.setCkpt i v).shardTable = s.shardTable := rfl
@[simp] theorem State.setCkpt_pressCode (s : State) (i : Nat) (v : CkptSlot) : (s.setCkpt i v).pressCode = s.pressCode := rfl
@[simp] theorem State.setCkpt_pressIndex (s : State) (i : Nat) (v : CkptSlot) : (s.setCkpt i v).pressIndex = s.pressIndex := rfl
@[simp] theorem State.setCkpt_resendRefused (s : State) (i : Nat) (v : CkptSlot) : (s.setCkpt i v).resendRefused = s.resendRefused := rfl
@[simp] theorem State.setCkpt_msixOut (s : State) (i : Nat) (v : CkptSlot) : (s.setCkpt i v).msixOut = s.msixOut := rfl
@[simp] theorem State.setCkpt_troroikOut (s : State) (i : Nat) (v : CkptSlot) : (s.setCkpt i v).troroikOut = s.troroikOut := rfl
@[simp] theorem State.setCkpt_grants (s : State) (i : Nat) (v : CkptSlot) : (s.setCkpt i v).grants = s.grants := rfl
@[simp] theorem State.setCkpt_lastGrant (s : State) (i : Nat) (v : CkptSlot) : (s.setCkpt i v).lastGrant = s.lastGrant := rfl
@[simp] theorem State.setCkpt_free (s : State) (i : Nat) (v : CkptSlot) : (s.setCkpt i v).free = s.free := rfl
@[simp] theorem State.setCkpt_die_at (s : State) (i j : Nat) (v : CkptSlot) : (s.setCkpt i v).die j = s.die j := rfl
@[simp] theorem State.setCkpt_queue_at (s : State) (i j : Nat) (v : CkptSlot) : (s.setCkpt i v).queue j = s.queue j := rfl
@[simp] theorem State.setCkpt_group_at (s : State) (i j : Nat) (v : CkptSlot) : (s.setCkpt i v).group j = s.group j := rfl
@[simp] theorem State.setCkpt_src_at (s : State) (i j : Nat) (v : CkptSlot) : (s.setCkpt i v).src j = s.src j := rfl
@[simp] theorem State.setCkpt_msixOf_at (s : State) (i j : Nat) (v : CkptSlot) : (s.setCkpt i v).msixOf j = s.msixOf j := rfl
@[simp] theorem State.setCkpt_block_at (s : State) (i j : Nat) (v : CkptSlot) : (s.setCkpt i v).block j = s.block j := rfl
@[simp] theorem State.setCkpt_vatByte_at (s : State) (i j : Nat) (v : CkptSlot) : (s.setCkpt i v).vatByte j = s.vatByte j := rfl
@[simp] theorem State.setCkpt_vatCondAt_at (s : State) (i j : Nat) (v : CkptSlot) : (s.setCkpt i v).vatCondAt j = s.vatCondAt j := rfl
@[simp] theorem State.setCkpt_hbmByte_at (s : State) (i j : Nat) (v : CkptSlot) : (s.setCkpt i v).hbmByte j = s.hbmByte j := rfl
@[simp] theorem State.setCkpt_tag_at (s : State) (i j : Nat) (v : CkptSlot) : (s.setCkpt i v).tag j = s.tag j := rfl
@[simp] theorem State.setCkpt_hbmCondAt_at (s : State) (i j : Nat) (v : CkptSlot) : (s.setCkpt i v).hbmCondAt j = s.hbmCondAt j := rfl
@[simp] theorem State.setCkpt_hostByte_at (s : State) (i j : Nat) (v : CkptSlot) : (s.setCkpt i v).hostByte j = s.hostByte j := rfl
@[simp] theorem State.setCkpt_flashOf_at (s : State) (i j : Nat) (v : CkptSlot) : (s.setCkpt i v).flashOf j = s.flashOf j := rfl
@[simp] theorem State.setCkpt_cell_at (s : State) (i j : Nat) (v : CkptSlot) : (s.setCkpt i v).cell j = s.cell j := rfl
@[simp] theorem State.setCkpt_shadow_at (s : State) (i j : Nat) (v : CkptSlot) : (s.setCkpt i v).shadow j = s.shadow j := rfl
@[simp] theorem State.setCkpt_pbank_at (s : State) (i j : Nat) (v : CkptSlot) : (s.setCkpt i v).pbank j = s.pbank j := rfl
@[simp] theorem State.setCkpt_accEntry_at (s : State) (i j : Nat) (v : CkptSlot) : (s.setCkpt i v).accEntry j = s.accEntry j := rfl
@[simp] theorem State.setCkpt_bank_at (s : State) (i j : Nat) (v : CkptSlot) : (s.setCkpt i v).bank j = s.bank j := rfl
@[simp] theorem State.setCkpt_chain_at (s : State) (i j : Nat) (v : CkptSlot) : (s.setCkpt i v).chain j = s.chain j := rfl
@[simp] theorem State.setCkpt_stream_at (s : State) (i j : Nat) (v : CkptSlot) : (s.setCkpt i v).stream j = s.stream j := rfl
@[simp] theorem State.setCkpt_ctx_at (s : State) (i j : Nat) (v : CkptSlot) : (s.setCkpt i v).ctx j = s.ctx j := rfl
@[simp] theorem State.setCkpt_pfx_at (s : State) (i j : Nat) (v : CkptSlot) : (s.setCkpt i v).pfx j = s.pfx j := rfl
@[simp] theorem State.setCkpt_adapter_at (s : State) (i j : Nat) (v : CkptSlot) : (s.setCkpt i v).adapter j = s.adapter j := rfl
@[simp] theorem State.setCkpt_pool_at (s : State) (i j : Nat) (v : CkptSlot) : (s.setCkpt i v).pool j = s.pool j := rfl
@[simp] theorem State.setCkpt_port_at (s : State) (i j : Nat) (v : CkptSlot) : (s.setCkpt i v).port j = s.port j := rfl
@[simp] theorem State.setCkpt_job_at (s : State) (i j : Nat) (v : CkptSlot) : (s.setCkpt i v).job j = s.job j := rfl
@[simp] theorem State.setCkpt_jobFlags_at (s : State) (i j : Nat) (v : CkptSlot) : (s.setCkpt i v).jobFlags j = s.jobFlags j := rfl
@[simp] theorem State.setCkpt_bucket_at (s : State) (i j : Nat) (v : CkptSlot) : (s.setCkpt i v).bucket j = s.bucket j := rfl
@[simp] theorem State.setCkpt_distEntry_at (s : State) (i j : Nat) (v : CkptSlot) : (s.setCkpt i v).distEntry j = s.distEntry j := rfl
@[simp] theorem State.setCkpt_logEntry_at (s : State) (i j : Nat) (v : CkptSlot) : (s.setCkpt i v).logEntry j = s.logEntry j := rfl

/-! ### setPort -/

@[simp] theorem State.setPort_same (s : State) (i : Nat) (v : Port) : (s.setPort i v).port i = v :=
  SMap.get_set_same _ _ _
theorem State.setPort_other (s : State) (v : Port) {i j : Nat} (h : i ≠ j) : (s.setPort i v).port j = s.port j :=
  SMap.get_set_other _ _ h
@[simp] theorem State.setPort_pending (s : State) (i : Nat) (v : Port) : (s.setPort i v).pending = s.pending := rfl
@[simp] theorem State.setPort_power (s : State) (i : Nat) (v : Port) : (s.setPort i v).power = s.power := rfl
@[simp] theorem State.setPort_time (s : State) (i : Nat) (v : Port) : (s.setPort i v).time = s.time := rfl
@[simp] theorem State.setPort_img (s : State) (i : Nat) (v : Port) : (s.setPort i v).img = s.img := rfl
@[simp] theorem State.setPort_sec (s : State) (i : Nat) (v : Port) : (s.setPort i v).sec = s.sec := rfl
@[simp] theorem State.setPort_store (s : State) (i : Nat) (v : Port) : (s.setPort i v).store = s.store := rfl
@[simp] theorem State.setPort_stores (s : State) (i : Nat) (v : Port) : (s.setPort i v).stores = s.stores := rfl
@[simp] theorem State.setPort_pair (s : State) (i : Nat) (v : Port) : (s.setPort i v).pair = s.pair := rfl
@[simp] theorem State.setPort_gHold (s : State) (i : Nat) (v : Port) : (s.setPort i v).gHold = s.gHold := rfl
@[simp] theorem State.setPort_groupBits (s : State) (i : Nat) (v : Port) : (s.setPort i v).groupBits = s.groupBits := rfl
@[simp] theorem State.setPort_shardTable (s : State) (i : Nat) (v : Port) : (s.setPort i v).shardTable = s.shardTable := rfl
@[simp] theorem State.setPort_pressCode (s : State) (i : Nat) (v : Port) : (s.setPort i v).pressCode = s.pressCode := rfl
@[simp] theorem State.setPort_pressIndex (s : State) (i : Nat) (v : Port) : (s.setPort i v).pressIndex = s.pressIndex := rfl
@[simp] theorem State.setPort_resendRefused (s : State) (i : Nat) (v : Port) : (s.setPort i v).resendRefused = s.resendRefused := rfl
@[simp] theorem State.setPort_msixOut (s : State) (i : Nat) (v : Port) : (s.setPort i v).msixOut = s.msixOut := rfl
@[simp] theorem State.setPort_troroikOut (s : State) (i : Nat) (v : Port) : (s.setPort i v).troroikOut = s.troroikOut := rfl
@[simp] theorem State.setPort_grants (s : State) (i : Nat) (v : Port) : (s.setPort i v).grants = s.grants := rfl
@[simp] theorem State.setPort_lastGrant (s : State) (i : Nat) (v : Port) : (s.setPort i v).lastGrant = s.lastGrant := rfl
@[simp] theorem State.setPort_free (s : State) (i : Nat) (v : Port) : (s.setPort i v).free = s.free := rfl
@[simp] theorem State.setPort_die_at (s : State) (i j : Nat) (v : Port) : (s.setPort i v).die j = s.die j := rfl
@[simp] theorem State.setPort_queue_at (s : State) (i j : Nat) (v : Port) : (s.setPort i v).queue j = s.queue j := rfl
@[simp] theorem State.setPort_group_at (s : State) (i j : Nat) (v : Port) : (s.setPort i v).group j = s.group j := rfl
@[simp] theorem State.setPort_src_at (s : State) (i j : Nat) (v : Port) : (s.setPort i v).src j = s.src j := rfl
@[simp] theorem State.setPort_msixOf_at (s : State) (i j : Nat) (v : Port) : (s.setPort i v).msixOf j = s.msixOf j := rfl
@[simp] theorem State.setPort_block_at (s : State) (i j : Nat) (v : Port) : (s.setPort i v).block j = s.block j := rfl
@[simp] theorem State.setPort_vatByte_at (s : State) (i j : Nat) (v : Port) : (s.setPort i v).vatByte j = s.vatByte j := rfl
@[simp] theorem State.setPort_vatCondAt_at (s : State) (i j : Nat) (v : Port) : (s.setPort i v).vatCondAt j = s.vatCondAt j := rfl
@[simp] theorem State.setPort_hbmByte_at (s : State) (i j : Nat) (v : Port) : (s.setPort i v).hbmByte j = s.hbmByte j := rfl
@[simp] theorem State.setPort_tag_at (s : State) (i j : Nat) (v : Port) : (s.setPort i v).tag j = s.tag j := rfl
@[simp] theorem State.setPort_hbmCondAt_at (s : State) (i j : Nat) (v : Port) : (s.setPort i v).hbmCondAt j = s.hbmCondAt j := rfl
@[simp] theorem State.setPort_hostByte_at (s : State) (i j : Nat) (v : Port) : (s.setPort i v).hostByte j = s.hostByte j := rfl
@[simp] theorem State.setPort_flashOf_at (s : State) (i j : Nat) (v : Port) : (s.setPort i v).flashOf j = s.flashOf j := rfl
@[simp] theorem State.setPort_cell_at (s : State) (i j : Nat) (v : Port) : (s.setPort i v).cell j = s.cell j := rfl
@[simp] theorem State.setPort_shadow_at (s : State) (i j : Nat) (v : Port) : (s.setPort i v).shadow j = s.shadow j := rfl
@[simp] theorem State.setPort_pbank_at (s : State) (i j : Nat) (v : Port) : (s.setPort i v).pbank j = s.pbank j := rfl
@[simp] theorem State.setPort_accEntry_at (s : State) (i j : Nat) (v : Port) : (s.setPort i v).accEntry j = s.accEntry j := rfl
@[simp] theorem State.setPort_bank_at (s : State) (i j : Nat) (v : Port) : (s.setPort i v).bank j = s.bank j := rfl
@[simp] theorem State.setPort_chain_at (s : State) (i j : Nat) (v : Port) : (s.setPort i v).chain j = s.chain j := rfl
@[simp] theorem State.setPort_stream_at (s : State) (i j : Nat) (v : Port) : (s.setPort i v).stream j = s.stream j := rfl
@[simp] theorem State.setPort_ctx_at (s : State) (i j : Nat) (v : Port) : (s.setPort i v).ctx j = s.ctx j := rfl
@[simp] theorem State.setPort_pfx_at (s : State) (i j : Nat) (v : Port) : (s.setPort i v).pfx j = s.pfx j := rfl
@[simp] theorem State.setPort_adapter_at (s : State) (i j : Nat) (v : Port) : (s.setPort i v).adapter j = s.adapter j := rfl
@[simp] theorem State.setPort_pool_at (s : State) (i j : Nat) (v : Port) : (s.setPort i v).pool j = s.pool j := rfl
@[simp] theorem State.setPort_ckpt_at (s : State) (i j : Nat) (v : Port) : (s.setPort i v).ckpt j = s.ckpt j := rfl
@[simp] theorem State.setPort_job_at (s : State) (i j : Nat) (v : Port) : (s.setPort i v).job j = s.job j := rfl
@[simp] theorem State.setPort_jobFlags_at (s : State) (i j : Nat) (v : Port) : (s.setPort i v).jobFlags j = s.jobFlags j := rfl
@[simp] theorem State.setPort_bucket_at (s : State) (i j : Nat) (v : Port) : (s.setPort i v).bucket j = s.bucket j := rfl
@[simp] theorem State.setPort_distEntry_at (s : State) (i j : Nat) (v : Port) : (s.setPort i v).distEntry j = s.distEntry j := rfl
@[simp] theorem State.setPort_logEntry_at (s : State) (i j : Nat) (v : Port) : (s.setPort i v).logEntry j = s.logEntry j := rfl

/-! ### setJob -/

@[simp] theorem State.setJob_same (s : State) (i : Nat) (v : Halves Job) : (s.setJob i v).job i = v :=
  SMap.get_set_same _ _ _
theorem State.setJob_other (s : State) (v : Halves Job) {i j : Nat} (h : i ≠ j) : (s.setJob i v).job j = s.job j :=
  SMap.get_set_other _ _ h
@[simp] theorem State.setJob_pending (s : State) (i : Nat) (v : Halves Job) : (s.setJob i v).pending = s.pending := rfl
@[simp] theorem State.setJob_power (s : State) (i : Nat) (v : Halves Job) : (s.setJob i v).power = s.power := rfl
@[simp] theorem State.setJob_time (s : State) (i : Nat) (v : Halves Job) : (s.setJob i v).time = s.time := rfl
@[simp] theorem State.setJob_img (s : State) (i : Nat) (v : Halves Job) : (s.setJob i v).img = s.img := rfl
@[simp] theorem State.setJob_sec (s : State) (i : Nat) (v : Halves Job) : (s.setJob i v).sec = s.sec := rfl
@[simp] theorem State.setJob_store (s : State) (i : Nat) (v : Halves Job) : (s.setJob i v).store = s.store := rfl
@[simp] theorem State.setJob_stores (s : State) (i : Nat) (v : Halves Job) : (s.setJob i v).stores = s.stores := rfl
@[simp] theorem State.setJob_pair (s : State) (i : Nat) (v : Halves Job) : (s.setJob i v).pair = s.pair := rfl
@[simp] theorem State.setJob_gHold (s : State) (i : Nat) (v : Halves Job) : (s.setJob i v).gHold = s.gHold := rfl
@[simp] theorem State.setJob_groupBits (s : State) (i : Nat) (v : Halves Job) : (s.setJob i v).groupBits = s.groupBits := rfl
@[simp] theorem State.setJob_shardTable (s : State) (i : Nat) (v : Halves Job) : (s.setJob i v).shardTable = s.shardTable := rfl
@[simp] theorem State.setJob_pressCode (s : State) (i : Nat) (v : Halves Job) : (s.setJob i v).pressCode = s.pressCode := rfl
@[simp] theorem State.setJob_pressIndex (s : State) (i : Nat) (v : Halves Job) : (s.setJob i v).pressIndex = s.pressIndex := rfl
@[simp] theorem State.setJob_resendRefused (s : State) (i : Nat) (v : Halves Job) : (s.setJob i v).resendRefused = s.resendRefused := rfl
@[simp] theorem State.setJob_msixOut (s : State) (i : Nat) (v : Halves Job) : (s.setJob i v).msixOut = s.msixOut := rfl
@[simp] theorem State.setJob_troroikOut (s : State) (i : Nat) (v : Halves Job) : (s.setJob i v).troroikOut = s.troroikOut := rfl
@[simp] theorem State.setJob_grants (s : State) (i : Nat) (v : Halves Job) : (s.setJob i v).grants = s.grants := rfl
@[simp] theorem State.setJob_lastGrant (s : State) (i : Nat) (v : Halves Job) : (s.setJob i v).lastGrant = s.lastGrant := rfl
@[simp] theorem State.setJob_free (s : State) (i : Nat) (v : Halves Job) : (s.setJob i v).free = s.free := rfl
@[simp] theorem State.setJob_die_at (s : State) (i j : Nat) (v : Halves Job) : (s.setJob i v).die j = s.die j := rfl
@[simp] theorem State.setJob_queue_at (s : State) (i j : Nat) (v : Halves Job) : (s.setJob i v).queue j = s.queue j := rfl
@[simp] theorem State.setJob_group_at (s : State) (i j : Nat) (v : Halves Job) : (s.setJob i v).group j = s.group j := rfl
@[simp] theorem State.setJob_src_at (s : State) (i j : Nat) (v : Halves Job) : (s.setJob i v).src j = s.src j := rfl
@[simp] theorem State.setJob_msixOf_at (s : State) (i j : Nat) (v : Halves Job) : (s.setJob i v).msixOf j = s.msixOf j := rfl
@[simp] theorem State.setJob_block_at (s : State) (i j : Nat) (v : Halves Job) : (s.setJob i v).block j = s.block j := rfl
@[simp] theorem State.setJob_vatByte_at (s : State) (i j : Nat) (v : Halves Job) : (s.setJob i v).vatByte j = s.vatByte j := rfl
@[simp] theorem State.setJob_vatCondAt_at (s : State) (i j : Nat) (v : Halves Job) : (s.setJob i v).vatCondAt j = s.vatCondAt j := rfl
@[simp] theorem State.setJob_hbmByte_at (s : State) (i j : Nat) (v : Halves Job) : (s.setJob i v).hbmByte j = s.hbmByte j := rfl
@[simp] theorem State.setJob_tag_at (s : State) (i j : Nat) (v : Halves Job) : (s.setJob i v).tag j = s.tag j := rfl
@[simp] theorem State.setJob_hbmCondAt_at (s : State) (i j : Nat) (v : Halves Job) : (s.setJob i v).hbmCondAt j = s.hbmCondAt j := rfl
@[simp] theorem State.setJob_hostByte_at (s : State) (i j : Nat) (v : Halves Job) : (s.setJob i v).hostByte j = s.hostByte j := rfl
@[simp] theorem State.setJob_flashOf_at (s : State) (i j : Nat) (v : Halves Job) : (s.setJob i v).flashOf j = s.flashOf j := rfl
@[simp] theorem State.setJob_cell_at (s : State) (i j : Nat) (v : Halves Job) : (s.setJob i v).cell j = s.cell j := rfl
@[simp] theorem State.setJob_shadow_at (s : State) (i j : Nat) (v : Halves Job) : (s.setJob i v).shadow j = s.shadow j := rfl
@[simp] theorem State.setJob_pbank_at (s : State) (i j : Nat) (v : Halves Job) : (s.setJob i v).pbank j = s.pbank j := rfl
@[simp] theorem State.setJob_accEntry_at (s : State) (i j : Nat) (v : Halves Job) : (s.setJob i v).accEntry j = s.accEntry j := rfl
@[simp] theorem State.setJob_bank_at (s : State) (i j : Nat) (v : Halves Job) : (s.setJob i v).bank j = s.bank j := rfl
@[simp] theorem State.setJob_chain_at (s : State) (i j : Nat) (v : Halves Job) : (s.setJob i v).chain j = s.chain j := rfl
@[simp] theorem State.setJob_stream_at (s : State) (i j : Nat) (v : Halves Job) : (s.setJob i v).stream j = s.stream j := rfl
@[simp] theorem State.setJob_ctx_at (s : State) (i j : Nat) (v : Halves Job) : (s.setJob i v).ctx j = s.ctx j := rfl
@[simp] theorem State.setJob_pfx_at (s : State) (i j : Nat) (v : Halves Job) : (s.setJob i v).pfx j = s.pfx j := rfl
@[simp] theorem State.setJob_adapter_at (s : State) (i j : Nat) (v : Halves Job) : (s.setJob i v).adapter j = s.adapter j := rfl
@[simp] theorem State.setJob_pool_at (s : State) (i j : Nat) (v : Halves Job) : (s.setJob i v).pool j = s.pool j := rfl
@[simp] theorem State.setJob_ckpt_at (s : State) (i j : Nat) (v : Halves Job) : (s.setJob i v).ckpt j = s.ckpt j := rfl
@[simp] theorem State.setJob_port_at (s : State) (i j : Nat) (v : Halves Job) : (s.setJob i v).port j = s.port j := rfl
@[simp] theorem State.setJob_jobFlags_at (s : State) (i j : Nat) (v : Halves Job) : (s.setJob i v).jobFlags j = s.jobFlags j := rfl
@[simp] theorem State.setJob_bucket_at (s : State) (i j : Nat) (v : Halves Job) : (s.setJob i v).bucket j = s.bucket j := rfl
@[simp] theorem State.setJob_distEntry_at (s : State) (i j : Nat) (v : Halves Job) : (s.setJob i v).distEntry j = s.distEntry j := rfl
@[simp] theorem State.setJob_logEntry_at (s : State) (i j : Nat) (v : Halves Job) : (s.setJob i v).logEntry j = s.logEntry j := rfl

/-! ### setJobFlags -/

@[simp] theorem State.setJobFlags_same (s : State) (i : Nat) (v : JobPlain) : (s.setJobFlags i v).jobFlags i = v :=
  SMap.get_set_same _ _ _
theorem State.setJobFlags_other (s : State) (v : JobPlain) {i j : Nat} (h : i ≠ j) : (s.setJobFlags i v).jobFlags j = s.jobFlags j :=
  SMap.get_set_other _ _ h

/-! ### setBucket -/

@[simp] theorem State.setBucket_same (s : State) (i : Nat) (v : Bucket) : (s.setBucket i v).bucket i = v :=
  SMap.get_set_same _ _ _
theorem State.setBucket_other (s : State) (v : Bucket) {i j : Nat} (h : i ≠ j) : (s.setBucket i v).bucket j = s.bucket j :=
  SMap.get_set_other _ _ h

/-! ### setDistEntry -/

@[simp] theorem State.setDistEntry_same (s : State) (i : Nat) (v : BitVec 16) : (s.setDistEntry i v).distEntry i = v :=
  SMap.get_set_same _ _ _
theorem State.setDistEntry_other (s : State) (v : BitVec 16) {i j : Nat} (h : i ≠ j) : (s.setDistEntry i v).distEntry j = s.distEntry j :=
  SMap.get_set_other _ _ h

/-! ### setLogEntry -/

@[simp] theorem State.setLogEntry_same (s : State) (i : Nat) (v : LogEntry) : (s.setLogEntry i v).logEntry i = v :=
  SMap.get_set_same _ _ _
theorem State.setLogEntry_other (s : State) (v : LogEntry) {i j : Nat} (h : i ≠ j) : (s.setLogEntry i v).logEntry j = s.logEntry j :=
  SMap.get_set_other _ _ h
@[simp] theorem State.setLogEntry_pending (s : State) (i : Nat) (v : LogEntry) : (s.setLogEntry i v).pending = s.pending := rfl
@[simp] theorem State.setLogEntry_power (s : State) (i : Nat) (v : LogEntry) : (s.setLogEntry i v).power = s.power := rfl
@[simp] theorem State.setLogEntry_time (s : State) (i : Nat) (v : LogEntry) : (s.setLogEntry i v).time = s.time := rfl
@[simp] theorem State.setLogEntry_img (s : State) (i : Nat) (v : LogEntry) : (s.setLogEntry i v).img = s.img := rfl
@[simp] theorem State.setLogEntry_sec (s : State) (i : Nat) (v : LogEntry) : (s.setLogEntry i v).sec = s.sec := rfl
@[simp] theorem State.setLogEntry_store (s : State) (i : Nat) (v : LogEntry) : (s.setLogEntry i v).store = s.store := rfl
@[simp] theorem State.setLogEntry_stores (s : State) (i : Nat) (v : LogEntry) : (s.setLogEntry i v).stores = s.stores := rfl
@[simp] theorem State.setLogEntry_pair (s : State) (i : Nat) (v : LogEntry) : (s.setLogEntry i v).pair = s.pair := rfl
@[simp] theorem State.setLogEntry_gHold (s : State) (i : Nat) (v : LogEntry) : (s.setLogEntry i v).gHold = s.gHold := rfl
@[simp] theorem State.setLogEntry_groupBits (s : State) (i : Nat) (v : LogEntry) : (s.setLogEntry i v).groupBits = s.groupBits := rfl
@[simp] theorem State.setLogEntry_shardTable (s : State) (i : Nat) (v : LogEntry) : (s.setLogEntry i v).shardTable = s.shardTable := rfl
@[simp] theorem State.setLogEntry_pressCode (s : State) (i : Nat) (v : LogEntry) : (s.setLogEntry i v).pressCode = s.pressCode := rfl
@[simp] theorem State.setLogEntry_pressIndex (s : State) (i : Nat) (v : LogEntry) : (s.setLogEntry i v).pressIndex = s.pressIndex := rfl
@[simp] theorem State.setLogEntry_resendRefused (s : State) (i : Nat) (v : LogEntry) : (s.setLogEntry i v).resendRefused = s.resendRefused := rfl
@[simp] theorem State.setLogEntry_msixOut (s : State) (i : Nat) (v : LogEntry) : (s.setLogEntry i v).msixOut = s.msixOut := rfl
@[simp] theorem State.setLogEntry_troroikOut (s : State) (i : Nat) (v : LogEntry) : (s.setLogEntry i v).troroikOut = s.troroikOut := rfl
@[simp] theorem State.setLogEntry_grants (s : State) (i : Nat) (v : LogEntry) : (s.setLogEntry i v).grants = s.grants := rfl
@[simp] theorem State.setLogEntry_lastGrant (s : State) (i : Nat) (v : LogEntry) : (s.setLogEntry i v).lastGrant = s.lastGrant := rfl
@[simp] theorem State.setLogEntry_free (s : State) (i : Nat) (v : LogEntry) : (s.setLogEntry i v).free = s.free := rfl
@[simp] theorem State.setLogEntry_die_at (s : State) (i j : Nat) (v : LogEntry) : (s.setLogEntry i v).die j = s.die j := rfl
@[simp] theorem State.setLogEntry_queue_at (s : State) (i j : Nat) (v : LogEntry) : (s.setLogEntry i v).queue j = s.queue j := rfl
@[simp] theorem State.setLogEntry_group_at (s : State) (i j : Nat) (v : LogEntry) : (s.setLogEntry i v).group j = s.group j := rfl
@[simp] theorem State.setLogEntry_src_at (s : State) (i j : Nat) (v : LogEntry) : (s.setLogEntry i v).src j = s.src j := rfl
@[simp] theorem State.setLogEntry_msixOf_at (s : State) (i j : Nat) (v : LogEntry) : (s.setLogEntry i v).msixOf j = s.msixOf j := rfl
@[simp] theorem State.setLogEntry_block_at (s : State) (i j : Nat) (v : LogEntry) : (s.setLogEntry i v).block j = s.block j := rfl
@[simp] theorem State.setLogEntry_vatByte_at (s : State) (i j : Nat) (v : LogEntry) : (s.setLogEntry i v).vatByte j = s.vatByte j := rfl
@[simp] theorem State.setLogEntry_vatCondAt_at (s : State) (i j : Nat) (v : LogEntry) : (s.setLogEntry i v).vatCondAt j = s.vatCondAt j := rfl
@[simp] theorem State.setLogEntry_hbmByte_at (s : State) (i j : Nat) (v : LogEntry) : (s.setLogEntry i v).hbmByte j = s.hbmByte j := rfl
@[simp] theorem State.setLogEntry_tag_at (s : State) (i j : Nat) (v : LogEntry) : (s.setLogEntry i v).tag j = s.tag j := rfl
@[simp] theorem State.setLogEntry_hbmCondAt_at (s : State) (i j : Nat) (v : LogEntry) : (s.setLogEntry i v).hbmCondAt j = s.hbmCondAt j := rfl
@[simp] theorem State.setLogEntry_hostByte_at (s : State) (i j : Nat) (v : LogEntry) : (s.setLogEntry i v).hostByte j = s.hostByte j := rfl
@[simp] theorem State.setLogEntry_flashOf_at (s : State) (i j : Nat) (v : LogEntry) : (s.setLogEntry i v).flashOf j = s.flashOf j := rfl
@[simp] theorem State.setLogEntry_cell_at (s : State) (i j : Nat) (v : LogEntry) : (s.setLogEntry i v).cell j = s.cell j := rfl
@[simp] theorem State.setLogEntry_shadow_at (s : State) (i j : Nat) (v : LogEntry) : (s.setLogEntry i v).shadow j = s.shadow j := rfl
@[simp] theorem State.setLogEntry_pbank_at (s : State) (i j : Nat) (v : LogEntry) : (s.setLogEntry i v).pbank j = s.pbank j := rfl
@[simp] theorem State.setLogEntry_accEntry_at (s : State) (i j : Nat) (v : LogEntry) : (s.setLogEntry i v).accEntry j = s.accEntry j := rfl
@[simp] theorem State.setLogEntry_bank_at (s : State) (i j : Nat) (v : LogEntry) : (s.setLogEntry i v).bank j = s.bank j := rfl
@[simp] theorem State.setLogEntry_chain_at (s : State) (i j : Nat) (v : LogEntry) : (s.setLogEntry i v).chain j = s.chain j := rfl
@[simp] theorem State.setLogEntry_stream_at (s : State) (i j : Nat) (v : LogEntry) : (s.setLogEntry i v).stream j = s.stream j := rfl
@[simp] theorem State.setLogEntry_ctx_at (s : State) (i j : Nat) (v : LogEntry) : (s.setLogEntry i v).ctx j = s.ctx j := rfl
@[simp] theorem State.setLogEntry_pfx_at (s : State) (i j : Nat) (v : LogEntry) : (s.setLogEntry i v).pfx j = s.pfx j := rfl
@[simp] theorem State.setLogEntry_adapter_at (s : State) (i j : Nat) (v : LogEntry) : (s.setLogEntry i v).adapter j = s.adapter j := rfl
@[simp] theorem State.setLogEntry_pool_at (s : State) (i j : Nat) (v : LogEntry) : (s.setLogEntry i v).pool j = s.pool j := rfl
@[simp] theorem State.setLogEntry_ckpt_at (s : State) (i j : Nat) (v : LogEntry) : (s.setLogEntry i v).ckpt j = s.ckpt j := rfl
@[simp] theorem State.setLogEntry_port_at (s : State) (i j : Nat) (v : LogEntry) : (s.setLogEntry i v).port j = s.port j := rfl
@[simp] theorem State.setLogEntry_job_at (s : State) (i j : Nat) (v : LogEntry) : (s.setLogEntry i v).job j = s.job j := rfl
@[simp] theorem State.setLogEntry_jobFlags_at (s : State) (i j : Nat) (v : LogEntry) : (s.setLogEntry i v).jobFlags j = s.jobFlags j := rfl
@[simp] theorem State.setLogEntry_bucket_at (s : State) (i j : Nat) (v : LogEntry) : (s.setLogEntry i v).bucket j = s.bucket j := rfl
@[simp] theorem State.setLogEntry_distEntry_at (s : State) (i j : Nat) (v : LogEntry) : (s.setLogEntry i v).distEntry j = s.distEntry j := rfl

end Sys2Proof.Machine
end

