-- ==== Sys2Proof/Laws/Ops.lean ====
section
/-! SUPPORT. What each shared operation does: memory writes, events on sources, records to the log, halves, answers. -/

namespace Sys2Proof.Machine

/-! ### Memories keep their canonical form -/

theorem Memory.wf_set {m : SMap Byte} (i : Nat) (v : Byte) (h : Memory.wf m = true) :
    Memory.wf (SMap.set 0 m i v) = true := SMap.wf_set i v h
theorem Memory.wf_setRun {m : SMap Byte} (i : Nat) (bs : List Byte) (h : Memory.wf m = true) :
    Memory.wf (SMap.setRun 0 m i bs) = true := SMap.wf_setRun i bs h
theorem Memory.wf_eraseIf {m : SMap Byte} (p : Nat → Bool) (h : Memory.wf m = true) :
    Memory.wf (SMap.eraseIf p m) = true := SMap.wf_eraseIf p h

theorem State.setHbm_keeps_wf {s : State} (a : Nat) (bs : List Byte) (h : Memory.wf s.hbm = true) :
    Memory.wf (s.setHbm a bs).hbm = true := by
  unfold State.setHbm
  split
  · exact h
  · exact Memory.wf_setRun a bs h
theorem State.setVat_keeps_wf {s : State} (d a : Nat) (bs : List Byte) (h : Memory.wf s.vat = true) :
    Memory.wf (s.setVat d a bs).vat = true := Memory.wf_setRun _ bs h
theorem State.setHost_keeps_wf {s : State} (fn a : Nat) (bs : List Byte) (h : Memory.wf s.host = true) :
    Memory.wf (s.setHost fn a bs).host = true := Memory.wf_setRun _ bs h
theorem State.setHbmByte_keeps_wf {s : State} (i : Nat) (v : Byte) (h : Memory.wf s.hbm = true) :
    Memory.wf (s.setHbmByte i v).hbm = true := Memory.wf_set i v h
theorem State.setVatByte_keeps_wf {s : State} (i : Nat) (v : Byte) (h : Memory.wf s.vat = true) :
    Memory.wf (s.setVatByte i v).vat = true := Memory.wf_set i v h
theorem State.setHostByte_keeps_wf {s : State} (i : Nat) (v : Byte) (h : Memory.wf s.host = true) :
    Memory.wf (s.setHostByte i v).host = true := Memory.wf_set i v h

/-- The memories of the state after reset are in canonical form. -/
theorem State.reset_memories_wf :
    Memory.wf State.reset.hbm = true ∧ Memory.wf State.reset.vat = true ∧ Memory.wf State.reset.host = true := by decide

/-! ### Reading bytes after writing them -/

theorem State.setHbm_byte_other (s : State) (a b : Nat) (bs : List Byte) (h : b < a ∨ a + bs.length ≤ b) :
    (s.setHbm a bs).hbmByte b = s.hbmByte b := by
  unfold State.setHbm State.hbmByte
  split
  · rfl
  · exact SMap.get_setRun_other _ _ _ _ h

theorem State.setHbm_byte_same (s : State) (a : Nat) (bs : List Byte) (k : Nat) (h : k < bs.length)
    (on : s.power.hbmOff = false) : (s.setHbm a bs).hbmByte (a + k) = bs[k] := by
  unfold State.setHbm State.hbmByte
  simp only [on, Bool.false_eq_true, if_false]
  exact SMap.get_setRun_same _ _ _ k h

/-- Once HBM writes have stopped nothing changes (R52, R58). -/
theorem State.setHbm_off (s : State) (a : Nat) (bs : List Byte) (off : s.power.hbmOff = true) : s.setHbm a bs = s := by
  simp [State.setHbm, off]

theorem State.setVat_byte_other (s : State) (d a i : Nat) (bs : List Byte)
    (h : i < vkey d a ∨ vkey d a + bs.length ≤ i) : (s.setVat d a bs).vatByte i = s.vatByte i :=
  SMap.get_setRun_other _ _ _ _ h
theorem State.setVat_byte_same (s : State) (d a : Nat) (bs : List Byte) (k : Nat) (h : k < bs.length) :
    (s.setVat d a bs).vatByte (vkey d a + k) = bs[k] := SMap.get_setRun_same _ _ _ k h

/-- An address of a function's memory and one after it, below the end of the space. -/
theorem hkey_add {fn a i : Nat} (h : a % 2 ^ 64 + i < 2 ^ 64) : hkey fn (a + i) = hkey fn a + i := by
  simp only [hkey]; omega

/-- What has been written to host memory is read back. -/
theorem State.setHost_bytes (s : State) (fn a : Nat) (bs : List Byte) (h : a % 2 ^ 64 + bs.length ≤ 2 ^ 64) :
    (s.setHost fn a bs).hostBytes fn a bs.length = bs := by
  apply List.ext_getElem
  · simp [State.hostBytes]
  · intro i h1 h2
    simp only [State.hostBytes, List.getElem_map, List.getElem_range]
    rw [hkey_add (by omega)]
    exact SMap.get_setRun_same _ _ _ i h2

/-! ### Events on sources (R215) -/

/-- One event: the flag is set, the counter advances up to saturation, PENDING is set where the source is routed. -/
theorem State.raise_src (s : State) (d src : Nat) :
    (s.raise d src).src (srcKey d src) = (s.src (srcKey d src)).event (s.awaits (srcKey d src)) := by
  simp [State.raise, State.modSrc]

/-- No other source changes. -/
theorem State.raise_src_other (s : State) (d src k : Nat) (h : srcKey d src ≠ k) : (s.raise d src).src k = s.src k := by
  simp [State.raise, State.modSrc, State.setSrc_other _ _ h]

theorem State.raise_flag (s : State) (d src : Nat) : (s.raise d src).flagOf d src = true := by
  simp [State.flagOf, State.raise_src, Source.event]

/-- An event changes the sources and nothing else. -/
theorem State.raise_frame (s : State) (d src : Nat) : s.raise d src = { s with srcs := (s.raise d src).srcs } := rfl

theorem State.clearFlag_src (s : State) (d src : Nat) :
    (s.clearFlag d src).src (srcKey d src) = { s.src (srcKey d src) with flag := false } := by
  simp [State.clearFlag, State.modSrc]
theorem State.clearFlag_frame (s : State) (d src : Nat) :
    s.clearFlag d src = { s with srcs := (s.clearFlag d src).srcs } := rfl
theorem State.clearCount_src (s : State) (d src : Nat) :
    (s.clearCount d src).src (srcKey d src) = { s.src (srcKey d src) with count := 0 } := by
  simp [State.clearCount, State.modSrc]

/-- A counter of events saturates at its greatest value. -/
theorem satAdd_toNat {n : Nat} (c : BitVec n) (k : Nat) : (satAdd c k).toNat = min (c.toNat + k) (2 ^ n - 1) := by
  have : 0 < 2 ^ n := Nat.two_pow_pos n
  simp only [satAdd, BitVec.toNat_ofNat]
  exact Nat.mod_eq_of_lt (by omega)

/-! ### Records to the log (R228) -/

/-- Posting touches the log's queue and drop counter of one die, and the source of drops. -/
theorem State.post_frame (s : State) (d event : Nat) (code : Code) (detail src : Nat) :
    s.post d event code detail src =
      { s with dies := (s.post d event code detail src).dies, srcs := (s.post d event code detail src).srcs } := by
  unfold State.post
  dsimp only
  split <;> rfl

/-! ### Writes before READY (R61) -/

theorem State.whenReady_ready {s t : State} (h : s.power.ready = true) : s.whenReady t = t := by simp [State.whenReady, h]
theorem State.whenReady_not {s t : State} (h : s.power.ready = false) : s.whenReady t = s := by simp [State.whenReady, h]

/-! ### Halves (R234) -/

theorem Halves.seen_write {α : Type} (h : Halves α) (g : Nat) (e : Nat × Nat) (v : α) : (h.write g e v).seen g = v := by
  simp [Halves.write, Halves.seen]
theorem Halves.write_com {α : Type} (h : Halves α) (g : Nat) (e : Nat × Nat) (v : α) : (h.write g e v).com = h.com := rfl
theorem Halves.commit_write {α : Type} (h : Halves α) (g : Nat) (e : Nat × Nat) (v : α) :
    ((h.write g e v).commit g) = halves0 v := by
  simp [Halves.write, Halves.commit]
theorem Halves.discard_write {α : Type} (h : Halves α) (g : Nat) (e : Nat × Nat) (v : α) :
    ((h.write g e v).discard g) = halves0 h.com := by
  simp [Halves.write, Halves.discard]
/-- Another group's commit leaves a pending half alone. -/
theorem Halves.commit_other {α : Type} (h : Halves α) (g k : Nat) (e : Nat × Nat) (v : α) (hne : g ≠ k) :
    (h.write g e v).commit k = h.write g e v := by
  simp [Halves.write, Halves.commit, hne]
/-- What no entry beyond `seq` of the queue wrote is not undone. -/
theorem Halves.undo_none {α : Type} (h : Halves α) (Q seq : Nat)
    (no : ∀ x ∈ h.trail, ¬ (x.1.1 = Q ∧ seq < x.1.2)) : h.undo Q seq = h := by
  have : h.trail.any (fun x => x.1.1 == Q && decide (seq < x.1.2)) = false := by
    simpa [List.any_eq_false] using no
  simp [Halves.undo, this]

/-! ### Answers -/

/-- Every meaning answers a next state, with the queue of commands as it was; only Troroik writes the stores. -/
theorem answerWith_eq (s t : State) (x : Store) (xs : SMap Store) :
    answerWith s t x xs = .next { t with pending := s.pending, store := x, stores := xs } := rfl
theorem answer_eq (s t : State) : answer s t = .next { t with pending := s.pending, store := s.store, stores := s.stores } := rfl

/-- What a descriptor row does to its entry: nothing where no started entry of the row is there, HBM has stopped or it is not the engine's turn;
otherwise the engine's work, and the entry's status once it has one. -/
theorem runEntry_cases (s : State) (d : DieId) (q : QId) (seq : BitVec 48) (row : Desc → Bool)
    (f : State → Nat → Desc → State × Option Code) :
    runEntry s d q seq row f = s ∨
    ∃ e, (s.queue (qnum d q)).entry seq.toNat = some e ∧ e.stat = .started ∧ row e.desc = true ∧ s.power.hbmOff = false ∧
      s.itsTurn (qnum d q) e = true ∧
      ((∃ c, (f s (qnum d q) e.desc).2 = some c ∧ runEntry s d q seq row f =
          ((f s (qnum d q) e.desc).1.endEntry (qnum d q) seq.toNat c).settleGates d.val) ∨
        ((f s (qnum d q) e.desc).2 = none ∧ runEntry s d q seq row f = (f s (qnum d q) e.desc).1)) := by
  cases he : (s.queue (qnum d q)).entry seq.toNat with
  | none => exact .inl (by simp [runEntry, he])
  | some e =>
    by_cases hc : ((e.stat = .started ∧ row e.desc = true) ∧ s.power.hbmOff = false) ∧ s.itsTurn (qnum d q) e = true
    · refine .inr ⟨e, rfl, hc.1.1.1, hc.1.1.2, hc.1.2, hc.2, ?_⟩
      cases hr : (f s (qnum d q) e.desc).2 with
      | some c => exact .inl ⟨c, rfl, by simp [runEntry, he, hc, hr]⟩
      | none => exact .inr ⟨rfl, by simp [runEntry, he, hc, hr]⟩
    · refine .inl ?_
      have : (decide (e.stat = .started) && row e.desc && !s.power.hbmOff && s.itsTurn (qnum d q) e) = false := by
        rw [← Bool.not_eq_true]
        simpa using hc
      simp [runEntry, he, this]

end Sys2Proof.Machine
end

