-- ==== Sys2Proof/Laws/Pages.lean ====
section
/-! SUPPORT. What reaching, reading and storing pages of HBM can do (R176, R179, R182, R185), said once for each shared
operation. -/

namespace Sys2Proof.Machine

/-! ### Frames -/

theorem State.setHbm_frame (s : State) (a : Nat) (bs : List Byte) : s.setHbm a bs = { s with hbm := (s.setHbm a bs).hbm } := by
  unfold State.setHbm
  split <;> rfl

theorem State.seal_frame (s : State) (p : Nat) : s.seal p = { s with tags := (s.seal p).tags } := rfl

theorem State.sealAll_frame (ps : List Nat) (s : State) :
    ps.foldl State.seal s = { s with tags := (ps.foldl State.seal s).tags } := by
  induction ps generalizing s with
  | nil => rfl
  | cons p ps ih => rw [List.foldl_cons, ih, State.seal_frame]

/-- Storing bytes writes HBM and the tags of the pages it meets. -/
theorem State.storeHbm_frame (s : State) (a : Nat) (bs : List Byte) :
    s.storeHbm a bs = { s with hbm := (s.setHbm a bs).hbm, tags := (s.storeHbm a bs).tags } := by
  unfold State.storeHbm
  rw [State.sealAll_frame, State.setHbm_frame]

/-- Storing writes the bytes that `setHbm` writes. -/
theorem State.storeHbm_hbm (s : State) (a : Nat) (bs : List Byte) : (s.storeHbm a bs).hbm = (s.setHbm a bs).hbm := by
  rw [State.storeHbm_frame]

/-- What reaching pages can change: registers of dies, tags, stored conditions, sources; no byte of any memory. -/
def PageFrame (s t : State) : Prop :=
  t = { s with dies := t.dies, tags := t.tags, hbmCond := t.hbmCond, srcs := t.srcs }

theorem PageFrame.refl (s : State) : PageFrame s s := rfl

theorem PageFrame.trans {s t u : State} (h : PageFrame s t) (k : PageFrame t u) : PageFrame s u := by
  unfold PageFrame at *
  rw [k, h]

theorem PageFrame.raise {s t : State} (h : PageFrame s t) (d src : Nat) : PageFrame s (t.raise d src) :=
  h.trans (t.raise_frame d src)
theorem PageFrame.modDie {s t : State} (h : PageFrame s t) (d : Nat) (g : Die → Die) : PageFrame s (t.modDie d g) := h.trans rfl
theorem PageFrame.setTag {s t : State} (h : PageFrame s t) (p : Nat) (g : PageTag) : PageFrame s (t.setTag p g) := h.trans rfl
theorem PageFrame.soundPage {s t : State} (h : PageFrame s t) (p : Nat) : PageFrame s (t.soundPage p) := h.trans rfl

theorem State.readCode_frame (s : State) (p : Nat) : PageFrame s (s.readCode p).1 := by
  unfold State.readCode
  dsimp only
  split
  · exact rfl
  · split
    · exact ((((PageFrame.refl s).setTag _ _).modDie _ _).modDie _ _).raise _ _ |>.raise _ _
    · split
      · exact ((((PageFrame.refl s).soundPage _).modDie _ _).modDie _ _).raise _ _
      · exact PageFrame.refl s

theorem State.reachPage_frame (s : State) (t : Nat) (any : Bool) (u : PageUse) (p : Nat) :
    PageFrame s (s.reachPage t any u p).1 := by
  have h := s.readCode_frame p
  unfold State.reachPage
  dsimp only
  split
  · exact PageFrame.refl s
  · split
    · exact rfl
    · split
      · exact ((PageFrame.refl s).soundPage _).setTag _ _
      · split
        · exact h
        · split
          · exact h.trans rfl
          · split
            · exact (h.soundPage _).setTag _ _
            · exact h

theorem State.reachAll_frame (s : State) (t : Nat) (any : Bool) (u : PageUse) (ps : List Nat) :
    PageFrame s (s.reachAll t any u ps).1 := by
  induction ps generalizing s with
  | nil => exact PageFrame.refl s
  | cons p ps ih =>
    have h := s.reachPage_frame t any u p
    unfold State.reachAll
    dsimp only
    split
    · exact h
    · exact h.trans (ih _)

/-! ### Pages without a fault -/

/-- The code of a page without bad words that is not poisoned shows nothing. -/
theorem State.readCode_of_sound {s : State} {p : Nat} (hp : (s.tag p).poison = false) (hu : s.badWords p .uncorrectable = [])
    (hc : s.badWords p .correctable = []) : s.readCode p = (s, false) := by
  simp [State.readCode, hp, hu, hc, dedup]

/-- A read of a good page changes nothing and does not fail. -/
theorem State.reachPage_read_of_good {s : State} {t p : Nat} (any : Bool) (g : PageGood s t p) :
    s.reachPage t any .read p = (s, none) := by
  obtain ⟨ha, ho, hk, _, hm, hp, hc, hu, _⟩ := g
  subst ho
  simp [State.reachPage, ha, hk, State.readCode_of_sound hp hu hc, hm]

theorem State.reachAll_read_of_good {s : State} {t : Nat} (any : Bool) {ps : List Nat} (g : ∀ p ∈ ps, PageGood s t p) :
    s.reachAll t any .read ps = (s, none) := by
  induction ps with
  | nil => rfl
  | cons p ps ih =>
    simp [State.reachAll, State.reachPage_read_of_good any (g p (by simp)), ih (fun q hq => g q (by simp [hq]))]

/-- A read of bytes whose pages are all good gives the bytes and changes nothing. -/
theorem State.readHbm_of_good {s : State} {t a n : Nat} (any : Bool) (g : ∀ p ∈ rangePages a n, PageGood s t p) :
    s.readHbm t any a n = (s, .ok (s.hbmBytes a n)) := by
  have h := State.reachAll_read_of_good any g
  unfold rangePages at h
  simp [State.readHbm, h]

end Sys2Proof.Machine
end

