-- ==== Sys2Proof/WellFormed.lean ====
section
/-! DEFINITION. Which commands can occur: the bounds on operands that their types leave open. A command that is not
well formed still has a meaning in `exec`; nothing outside the model can bring it about. -/

namespace Sys2Proof

/-- A frame has at most 480 payload bytes and a LEN the header can hold (R282). -/
def Frame.wf (f : Frame) : Bool := decide (f.payload.length ≤ 480)

/-- A power sample, cap or junction reading has no bound beyond its width. A step 5 result has one entry for each
die of its scope (R59, R63). -/
def StepResult.wf (sc : StartScope) : StepResult → Bool
  | .selfTest found => match sc with
    | .package => found.length == 4
    | .die _ => found.length == 1
    | .troroik _ => false
  | .stacks failed => decide failed.Nodup
  | _ => true

/-- A register address is a multiple of 8 in the BAR0 of its function: 128 MiB for the PF, 1 MiB for a VF (R16,
R53). -/
def wfAddr (fn : Fn) (a : BitVec 27) : Bool :=
  a.toNat % 8 == 0 && (fn == 0 || decide (a.toNat < 2 ^ 20))

/-- The well-formed commands. -/
def Instr.wf : Instr → Bool
  | .startupStepEnd sc r => r.wf sc
  | .d2dReplayExhausted a b => a != b
  | .timestampFrameRx _ _ f => f.wf && f.typ == 4
  | .shardFrameRx _ _ f => f.wf && f.typ == 1
  | .absentMarkerRx _ _ f => f.wf && f.typ == 2
  | .jobFrameRx _ _ f => f.wf && f.typ == 3
  | .removeDrainExpiry t => t != 0
  | .registerWrite fn a _ => wfAddr fn a
  | .entryComplete _ _ seq => seq != 0
  | _ => true

end Sys2Proof
end

