-- ==== Sys2Proof/Tests/Slice0.lean ====
section
/-! SUPPORT. Tests: ill-formed commands that WellFormed refuses, and for every statement with hypotheses a concrete state and
operands that meet them (`wit_<statement>_<clause>`), at the bounds of the clause. Every value comes from the spec's tables and
from counting by hand. -/

namespace Sys2Proof.Tests

-- One theorem after the other: each of these checks waits for the ones before it and would keep a thread meanwhile.
set_option Elab.async false

open Sys2Proof Sys2Proof.Machine

/-! ### Ill-formed commands are refused -/

def longFrame (typ : BitVec 4) (n : Nat) : Frame :=
  { typ := typ, vc := 0, dateline := false, tenant := 0, epoch := 0, last := false, raised := false, w1 := 0, w2 := 0
    payload := List.replicate n 0 }
def hdr0 : LinkHdr := { lseq := 0, ack := 0xFFF, cvc := 0, credits := 0, nak := false }
def oneDie : SelfTest :=
  { colsWest := 0, colsEast := 0, lanes0 := 0, lanes1 := 0, lanes2 := 0, lanes3 := 0, portLo := 0, portHi := 0, fault := false }

-- FIPS 197, appendix C.1, its bytes read as R265 says
theorem test_aes128_of_fips197 : aes128 0x0f0e0d0c0b0a09080706050403020100 0xffeeddccbbaa99887766554433221100
    = 0x5ac5b47080b7cdd830047b6ad8e0c469 := by decide +kernel
-- CRC-64 of ECMA-182: the catalogued check value of the nine digits
theorem test_crc64_check_value : crc64 ((List.range 9).map (fun i => BitVec.ofNat 8 (0x31 + i))) = 0x6C40DF5F0B497347 := by
  decide +kernel

theorem test_wf_frame_too_long : (Instr.shardFrameRx 0 hdr0 (longFrame 1 481)).wf = false := by decide +kernel
theorem test_wf_frame_longest : (Instr.shardFrameRx 0 hdr0 (longFrame 1 480)).wf = true := by decide +kernel
theorem test_wf_frame_types : (Instr.shardFrameRx 0 hdr0 (longFrame 2 0)).wf = false ∧ (Instr.absentMarkerRx 0 hdr0 (longFrame 1 0)).wf = false
    ∧ (Instr.jobFrameRx 0 hdr0 (longFrame 1 0)).wf = false ∧ (Instr.timestampFrameRx 0 hdr0 (longFrame 1 0)).wf = false := by decide
theorem test_wf_same_dies : (Instr.d2dReplayExhausted 2 2).wf = false := by decide
theorem test_wf_self_test : (Instr.startupStepEnd .package (.selfTest [oneDie])).wf = false
    ∧ (Instr.startupStepEnd (.troroik 1) (.selfTest [oneDie])).wf = false
    ∧ (Instr.startupStepEnd (.die 1) (.selfTest [oneDie])).wf = true := by decide
theorem test_wf_stacks_twice : (Instr.startupStepEnd (.die 1) (.stacks [0, 0])).wf = false := by decide
theorem test_wf_no_tenant : (Instr.removeDrainExpiry 0).wf = false := by decide
theorem test_wf_misaligned : (Instr.registerWrite 0 4 0).wf = false ∧ (Instr.registerWrite 1 0x100000 0).wf = false := by decide
theorem test_wf_sequence_zero : (Instr.entryComplete 0 0 0).wf = false := by decide

/-! ### States -/

/-- The device READY, as after start-up with nothing loaded. -/
def rdy : State := { State.reset with
  power := { State.reset.power with ready := true, bootStep := 6 }
  sec := { tenants := [(0, { state := .active, slot0 := some (KeySlot.fresh 0 0) })], alive := 15 } }

/-- An image whose records give die 0 one group: curds 0 to 639, queues 0 to 1023 in both regions and tenant `t`, the first
4095 sources to vector 7 of the PF, all formats on, VF 1 enabled. -/
def image (mode t : Nat) (coord : Word) (ports : List Word) : Image :=
  { kind := 1, keyIndex := 0, generation := 1, imageId := 0, length := 0, bytes := []
    pairing := [packWord [(mode, 2), (3, 0)]]
    curds := [packWord [(0, 52), (640, 42), (1, 40), (1, 32), (1, 31), (t, 24)]]
    queues := [packWord [(0, 52), (1023, 42), (2, 40), (1, 32), (t, 23)]]
    routes := [packWord [(0, 48), (4095, 36), (0, 28), (7, 20), (5, 16)]]
    coord := coord, ports := ports, formats := 0xFFFFFF, policy := 0, vfEnable := 1, serial := 0, bypass := [] }

/-- READY, with an image applied to die 0. -/
def liveWith (im : Image) : State := { rdy with
  img := { serve := { image := some im }, structKind := 1, activeKind := 1 }
  dies := [(0, { image := some im, wWest := 512, wEast := 512, lanes0 := 511, lanes1 := 511, lanes2 := 511, lanes3 := 511 })] }
def live : State := liveWith (image 0 0 0 [])

/-- A queue with one started entry, number 1. -/
def busyQueue (x : Desc) : Queue :=
  { enable := true, accepted := 1, ledAcc := 1, entries := [{ seq := 1, desc := x, stat := .started }] }
/-- A state in which queue 0 of die 0 has it. -/
def State.running (s : State) (x : Desc) : State := s.setQueue 0 (busyQueue x)

theorem started_running (s : State) (x : Desc) (h : s.power.hbmOff = false)
    (ht : (State.running s x).itsTurn 0 { seq := 1, desc := x, stat := .started } = true) : Started (State.running s x) 0 0 1 x :=
  ⟨h, { seq := 1, desc := x, stat := .started }, by
    have : (State.running s x).queue (qnum 0 0) = busyQueue x := by
      simp [State.running, State.queue, State.setQueue, qnum]
    rw [this]; rfl, rfl, rfl, ht⟩

/-- A descriptor of a class with the six words of its body. -/
def body (cls : Nat) (w10 w18 w20 w28 w30 w38 : Word) : Desc :=
  { w00 := packWord [(1, 16), (cls, 12)], w08 := 0, w10 := w10, w18 := w18, w20 := w20, w28 := w28, w30 := w30, w38 := w38 }

/-! ### The machine, the store, resets and start-up -/

theorem wit_CommandsRunToTheEnd : 2 ≤ ({ rdy with pending := [.timestampSend, .freezeAll] } : State).pending.length := by decide
theorem wit_IdleStep : State.reset.pending = [] := by decide
/-- All four stores say the same; a write of the floors waits. -/
def raising : State := { rdy.adoptStore { imgKeys := [] } with pending := [.imgGenFloorWrite 5] }
theorem wit_FloorsOnlyRise : raising.power.ready = true ∧ raising.unfenced ≠ [] ∧ raising.storesSound ∧
    (rdy.allDies (fun x => { x with fenced := true })).unfenced = [] ∧ ∃ t, core.run 1 raising = .next t :=
  ⟨by decide, by decide, by unfold State.storesSound; decide +kernel, by decide, _, rfl⟩

/-- The image-signing slot 7 is revoked, as all four stores say; an enrolment waits for it. -/
def revoked : State := { rdy.adoptStore { imgKeys := [(7, { val := { state := 2, key := [1] } })] } with pending := [.enroll 0x1D] }
theorem wit_RevokedSlots : (revoked.imgKey 7).state = 2 ∧ SMap.wf { val := {} } revoked.store.imgKeys = true ∧ revoked.storesSound ∧
    (∃ t, core.run 1 revoked = .next t) ∧ ∃ t, step revoked = .next t :=
  ⟨by decide, by decide, by unfold State.storesSound; decide +kernel, ⟨_, rfl⟩, ⟨_, rfl⟩⟩

def booting (n : BitVec 3) : State := { State.reset with power := { State.reset.power with booting := true, bootStep := n } }
theorem wit_StartupSteps : (booting 6).power.booting = true ∧ (booting 6).power.bootStep = 6 ∧ (booting 1).power.bootStep = 1 ∧
    (booting 2).power.bootStep = 2 ∧ (booting 3).power.bootStep = 3 ∧
    (∃ c, c ∈ stepCodes (booting 1).power.bootStep.toNat) ∧ ∃ c, c ∈ stepCodes (booting 5).power.bootStep.toNat :=
  ⟨by decide, by decide, by decide, by decide, by decide, ⟨_, List.mem_cons_self ..⟩, ⟨_, List.mem_cons_self ..⟩⟩
/-- Stores that authenticate, with the flashes as shipped; with a floor above them; and stores of which none authenticates. -/
def aStore (v : BitVec 16) (ok : Bool) : Store := { fwFloor := { ver := 1, auth := ok, val := v }, imgKeys := [] }
def floored (v : BitVec 16) : State := (booting 2).adoptStore (aStore v true)
def noStores : State := (booting 2).adoptStore (aStore 0 false)
theorem wit_StartupSteps_two : noStores.loadStores = none ∧
    ((floored 0).loadStores = some (aStore 0 true) ∧
      ∀ d : DieId, (((floored 0).adoptStore (aStore 0 true)).bootCopy d.val).isSome = true) ∧
    (floored 1).loadStores = some (aStore 1 true) ∧ ((floored 1).adoptStore (aStore 1 true)).bootCopy (0 : DieId).val = none := by
  decide +kernel
/-- Step 4 of a start-up after power-on. -/
def fromPor : State := { booting 4 with power := { (booting 4).power with bootPor := true } }
theorem wit_StartupSteps_later : (booting 4).power.bootStep = 4 ∧ (∀ d : DieId, ((booting 4).die d.val).anyLost = false) ∧
    (booting 4).power.bootPor = false ∧ fromPor.power.bootPor = true ∧ (booting 5).power.bootStep = 5 := by decide +kernel
theorem wit_StartupSteps_tests : [oneDie, oneDie, oneDie, oneDie].length = 4 ∧
    ∀ x ∈ [oneDie, oneDie, oneDie, oneDie], selfTestFailure x = none := by
  refine ⟨rfl, fun x h => ?_⟩
  have e : x = oneDie := by simpa using h
  subst e
  have h : minWidth ≤ 508 := by unfold minWidth; split <;> decide
  have z : ones oneDie.colsWest = 0 ∧ ones oneDie.colsEast = 0 := by decide +kernel
  rw [selfTestFailure, z.1, z.2, if_neg (by decide), if_neg (by simp; omega)]
theorem wit_FunctionLevelResets : (State.reset.queue 9).owner ≠ (3 : Fin 64).val + 1 ∧
    ((rdy.setQueue 9 { owner := 4 }).queue 9).owner = (3 : Fin 64).val + 1 := by decide
theorem wit_DieReset_paired : ((rdy.setQueue 9 { enable := true, paired := true }).queue 9).enable = true ∧
    ((rdy.setQueue 9 { enable := true, paired := true }).queue 9).paired = true ∧ dieOfQ 9 = (0 : DieId).val ∧
    (rdy.die 0).fenced = false ∧ rdy.primary = (0 : DieId).val ∧ rdy.power.booting = false := by decide
theorem wit_DieReset : dieOfQ 1023 = (0 : DieId).val ∧ dieOfQ 1024 ≠ (0 : DieId).val := by decide

/-! ### Supplies, clocks, temperature, the cap -/

theorem wit_PinsAndReadings : ∃ c : Instr, c = .pcieRefclkLoss ∨ c = .hostLinkDown := ⟨_, .inr rfl⟩
def onB : State := { rdy with power := { rdy.power with refBActive := true } }
theorem wit_ReferenceClocks : (rdy.power.refBActive = false ∧ rdy.power.refB = true ∧ rdy.power.refA = true) ∧
    ({ rdy.power with refB := false }.refBActive = false) ∧ onB.power.refBActive = true ∧
    ({ rdy with ports := [(1, { lanes := 8, state := .up })] }.port 1).state = .up := by decide
theorem wit_Droop : (580 ≤ (580#16).toNat ∧ (649#16).toNat < 650 ∧ (50000#32).toNat ≤ 50000) ∧
    (579#16).toNat < 580 ∧ 650 ≤ (650#16).toNat ∧ 50000 < (50001#32).toNat ∧
    ({ rdy.power with avsBad := true }).avsBad = true := by decide
theorem wit_CapAndPower : (600 ≤ (600#11).toNat ∧ (1800#11).toNat ≤ 1800 ∧ (599#11).toNat < 600 ∧ 1800 < (1801#11).toNat) ∧
    (650 ≤ (650#10).toNat ∧ (850#10).toNat ≤ 850 ∧ (649#10).toNat < 650 ∧ 850 < (851#10).toNat) ∧
    rdy.power.ready = true ∧ rdy.power.thermalHold = false := by decide
/-- A request of 655 mV under a cap of 1000 W, at a measured power. -/
def drawing (w : BitVec 16) : State := { rdy with power := { rdy.power with
  capW := 1000, powerW := w, requestMv := 655, vmaxMv := 660 } }
theorem wit_VoltageSteps : 650 ≤ (drawing 0).power.requestMv.toNat ∧ (drawing 0).power.requestMv.toNat ≤ (drawing 0).power.vmaxMv.toNat ∧
    ((drawing 0).power.capOn = true ∧ (drawing 0).power.avsBad = false ∧ (drawing 0).power.thermalHold = false) ∧
    ((drawing 1001).power.capW.toNat < (drawing 1001).power.powerW.toNat ∧ 655 ≤ (drawing 1001).power.requestMv.toNat) ∧
    (100 * (drawing 950).power.powerW.toNat ≤ 95 * (drawing 950).power.capW.toNat ∧
      (drawing 950).power.requestMv.toNat + 5 ≤ (drawing 950).power.vmaxMv.toNat) ∧
    ((drawing 951).power.powerW.toNat ≤ (drawing 951).power.capW.toNat ∧
      95 * (drawing 951).power.capW.toNat < 100 * (drawing 951).power.powerW.toNat) ∧
    ({ rdy.power with capOn := false }).capOn = false := by decide
def allAt (n : BitVec 8) : Vector (BitVec 8) 16 := Vector.replicate 16 n
theorem wit_ThermalLimits : ∃ t u v w, exec (.thermalSample 0 (allAt 106)) rdy = .next t ∧ 105 < (t.die 0).tjMax.toNat ∧
    exec (.thermalSample 0 (allAt 115)) rdy = .next u ∧ 115 ≤ (u.die 0).tjMax.toNat ∧
    exec (.thermalSample 0 (allAt 114)) rdy = .next v ∧ (v.die 0).tjMax.toNat < 115 ∧
    exec (.thermalSample 0 (allAt 105)) rdy = .next w ∧ (w.die 0).tjMax.toNat ≤ 105 :=
  ⟨_, _, _, _, rfl, by decide +kernel, rfl, by decide +kernel, rfl, by decide +kernel, rfl, by decide +kernel⟩

/-! ### Clusters, counters, time, fences -/

theorem wit_Gates : rdy.power.ready = true ∧ (∀ d p, Cluster.tile 0 127 ≠ .port d p) ∧ (∀ d p, Cluster.vec 3 3 ≠ .port d p) ∧
    (rdy.block (clusterKey (.port 3 1))).gate = false := ⟨by decide, nofun, nofun, by decide⟩
theorem wit_CounterBlocks : rdy.power.ready = true := by decide
theorem wit_CounterClears : rdy.power.ready = true := by decide

/-- Die 0 is the time root; its port 0 is up in role 1 and its port 1 in role 9, both passing frames on. -/
def linkImage : Image := image 0 0 (packWord [(1, 32), (4, 44), (4, 39), (1, 34)])
  [packWord [(0, 61), (1, 57), (1, 56)], packWord [(1, 61), (9, 57), (1, 56)]]
def upPort : Port := { lanes := 8, state := .up, credit := fullCredit }
def linked : State := { liveWith linkImage with ports := [(0, upPort), (1, upPort)] }
theorem wit_TimeBase : linked.power.ready = true ∧ linked.root = true ∧ linked.time.set = false ∧ rdy.root = false ∧
    (linked.port 0).state = .up ∧ 1 ≤ linked.role 0 ∧ linked.role 0 ≤ 8 ∧ (linked.port 2).state ≠ .up ∧
    hdr0.lseq = (linked.port 0).rxSeq ∧ hdr0.nak = false ∧ (longFrame 4 0).typ = 4 ∧ (longFrame 4 0).w2 = 0 := by decide +kernel

/-- One queue of die 0, enabled, idle and bound to both regions. -/
def oneQueue : State := live.setQueue 5 { enable := true }
theorem wit_RegionFences : (∃ c : Instr, c = .handshakeTimeout 0 .west ∨ c = .accParityError 0 .west) ∧
    oneQueue.fencedAt 0 .west = false ∧ oneQueue.queuesOf 0 = [5] ∧ (oneQueue.die 0).regionFenced Half.west.other = false ∧
    oneQueue.boundTo .west 5 = true ∧ (oneQueue.queue 5).enable = true ∧ (oneQueue.queue 5).halted = false ∧
    (oneQueue.queue 5).entries = [] :=
  ⟨⟨_, .inl rfl⟩, by decide +kernel, by decide +kernel, by decide +kernel, by decide +kernel, by decide +kernel, by decide +kernel, by decide +kernel⟩
theorem wit_DieFences : (∃ c : Instr, c = .troroikSilentTimeout 1) ∧ (∃ c : Instr, ∃ st why, c = .hbmCatastrophicError 1 st why) ∧
    (rdy.die 1).fenced = false := ⟨⟨_, rfl⟩, ⟨_, 2, .lines256, rfl⟩, by decide⟩
/-- The first codeword of page 0 of stack 2 of die 0 in a condition; the page poisoned; the scrub at its first metadata line. -/
def struck (c : Cond) : State := { rdy with hbmCond := [(128 * stackPage 0 2 0, c)] }
def scrubAt (n : Nat) : State := rdy.modDie 0 (fun x => x.modStack 2 (fun k => { k with scrubPos := n }))
theorem wit_PatrolScrub : rdy.power.hbmOff = false ∧ ((rdy.die 0).stack 2).lost = false ∧ (rdy.die 0).hbm ≠ .inService ∧
    ((rdy.modDie 0 (fun x => { x with hbm := .inService })).die 0).hbm = .inService ∧ ((rdy.die 0).stack 2).scrubPos < 2 ^ 25 ∧
    2 ^ 25 ≤ ((scrubAt (2 ^ 25 + 2 ^ 22 - 1)).die 0 |>.stack 2).scrubPos ∧
    (struck .correctable).badWords (stackPage 0 2 0) .correctable ≠ [] ∧ (struck .correctable).badWords (stackPage 0 2 0) .uncorrectable = [] ∧
    (struck .uncorrectable).badWords (stackPage 0 2 0) .uncorrectable ≠ [] ∧ rdy.badWords (stackPage 0 2 0) .correctable = [] ∧
    (rdy.tag (stackPage 0 2 0)).poison = false ∧
    ((rdy.setTag (stackPage 0 2 0) { poison := true }).tag (stackPage 0 2 0)).poison = true := by decide +kernel

/-- Tenant 1 between epochs 0 and 1; die 0 sweeps, page 9 is left. -/
def rotating : Tenant :=
  { state := .active, slot0 := some (KeySlot.fresh 0 0), slot1 := some (KeySlot.fresh 1 1), newest := 1
    olderValid := true, sweep := true, sweeping := 1 }
def sweeping : State := { rdy with
  sec := { rdy.sec with tenants := [(0, { state := .active }), (1, rotating)] }
  dies := [(0, { sweepActive := true, sweepTenant := 1 })], tags := [(9, { owner := 1, assigned := true })] }
/-- Every die has ended its sweep. -/
def swept (bad : Bool) : State := sweeping.modTenant 1 (fun x => { x with sweeping := 0, sweepBad := bad })
theorem wit_Sweeps : ((sweeping.die 0).sweepActive = true ∧ (sweeping.die 0).sweepRate ≠ 0 ∧ (sweeping.die 0).fenced = false ∧
      sweeping.power.hbmOff = false ∧ sweeping.sweepNextPage 0 (sweeping.die 0).sweepTenant.toNat = some 9 ∧
      (sweeping.tag 9).assigned = true ∧ (sweeping.tag 9).owner = (sweeping.die 0).sweepTenant.toNat ∧
      (sweeping.tenant (sweeping.tag 9).owner).hasKey (sweeping.tag 9).epoch = true ∧
      (sweeping.tenant (sweeping.tag 9).owner).hasKey (sweeping.tenant (sweeping.tag 9).owner).newest = true ∧
      sweeping.macFits 9 = true ∧ (sweeping.tag 9).poison = false ∧ sweeping.badWords 9 .correctable = [] ∧
      sweeping.badWords 9 .uncorrectable = []) ∧
    ((swept false).sweepOver 1 = true ∧ ((swept false).tenant 1).sweepBad = false) ∧
    ((swept true).sweepOver 1 = true ∧ ((swept true).tenant 1).sweepBad = true) := by decide +kernel

/-! ### Queues -/

/-- READY under an image whose policy requires IDE. -/
def ideLive : State := liveWith { image 0 0 0 [] with policy := 0x80 }
def ringing (a : Nat) : State := live.setQueue 5 { enable := true, accepted := a, ledAcc := a, ackWaiting := true }
theorem wit_Doorbells : ((ringing 3).queue (qnum 0 5)).enable = true ∧ (ringing 3).hearsDoorbells = true ∧
    (ringing 3).ideRequired = false ∧ (ringing 3).mayWrite (qnum 0 5) 0 = true ∧
    (((ringing 3).queue 5).accepted ≠ 2 ^ 48 - 1 ∧ ((ringing 3).queue 5).accepted < (64#48).toNat ∧
      (64#48).toNat ≤ ((ringing 3).queue 5).committed + 2 ^ ((ringing 3).queue 5).log2) ∧
    (3#48).toNat ≤ ((ringing 3).queue 5).accepted ∧
    (((ringing 3).queue 5).accepted < (65#48).toNat ∧
      ((ringing 3).queue 5).committed + 2 ^ ((ringing 3).queue 5).log2 < (65#48).toNat) ∧
    ((ringing (2 ^ 48 - 1)).queue 5).accepted = 2 ^ 48 - 1 ∧ ((ringing 3).queue 6).enable = false ∧
    State.reset.hearsDoorbells = false ∧ (ringing 3).mayWrite (qnum 0 5) 1 = false ∧ ideLive.ideRequired = true ∧
    ({ ideLive with sec := { ideLive.sec with ide := [{ stream := .link, key := 0, range := some (0, 0, 0x3FFFFFF) }] } } : State).ideCovers (some .link) 0 5 = true := by
  decide +kernel
theorem wit_DoorbellAcknowledged : ((ringing 3).queue (qnum 0 5)).ackWaiting = true ∧ ((ringing 3).queue (qnum 0 5)).paired = false ∧
    (ringing 3).hearsDoorbells = true ∧ (ringing 3).power.hbmOff = false ∧
    ((ringing 3).queue (qnum 0 5)).accepted ≤ ((ringing 3).queue (qnum 0 5)).ledAcc ∧
    ((ringing 3).queue (qnum 0 6)).ackWaiting = false := by decide +kernel

/-- A queue bound, enabled, with 20 accepted entries, of which the given ones are on the device. -/
def fetching (es : List Entry) : State := live.setQueue 5 { enable := true, accepted := 20, ledAcc := 20, entries := es }
def noOp (n : Nat) (w08 : Word) (st : EntryStat) : Entry :=
  { seq := n, desc := { w00 := packWord [(n, 16)], w08 := w08, w10 := 0, w18 := 0, w20 := 0, w28 := 0, w30 := 0, w38 := 0 }, stat := st }
def firstWaiting : List Entry := (List.range 16).map (fun i => noOp (i + 1) 0 .fetched)
theorem wit_EntryFetched : (fetching []).queueRuns (qnum 0 5) ((fetching []).queue 5).nextSeq = true ∧
    ((fetching []).queue 5).nextSeq ≤ ((fetching []).queue 5).accepted ∧ ((fetching []).queue 5).firstFetched = none ∧
    (∀ e, ((fetching firstWaiting).queue 5).firstFetched = some e → ((fetching firstWaiting).queue 5).nextSeq ≤ e.seq + 16) ∧
    ((fetching firstWaiting).queue 5).nextSeq = 17 := by
  refine ⟨by decide +kernel, by decide +kernel, by decide +kernel, ?_, by decide +kernel⟩
  intro e h
  have h2 : ((fetching firstWaiting).queue 5).firstFetched = some (noOp 1 0 .fetched) := by decide +kernel
  rw [h2] at h; cases h; decide +kernel
/-- FENCE makes entry 2 wait for entry 1; a reserved bit refuses it. -/
theorem wit_EntryStarted :
    (((fetching [noOp 1 0 .fetched]).queue (qnum 0 5)).firstFetched = some (noOp 1 0 .fetched) ∧
      (fetching [noOp 1 0 .fetched]).queueRuns (qnum 0 5) 1 = true ∧
      (fetching [noOp 1 0 .fetched]).startFailure (qnum 0 5) (noOp 1 0 .fetched) = none ∧
      (fetching [noOp 1 0 .fetched]).mayStart (qnum 0 5) (noOp 1 0 .fetched) = true ∧
      (fetching [noOp 1 0 .fetched]).granted (qnum 0 5) (noOp 1 0 .fetched) = true) ∧
    (((fetching [noOp 1 0 .started, noOp 2 4 .fetched]).queue (qnum 0 5)).firstFetched = some (noOp 2 4 .fetched) ∧
      (fetching [noOp 1 0 .started, noOp 2 4 .fetched]).startFailure (qnum 0 5) (noOp 2 4 .fetched) = none ∧
      (fetching [noOp 1 0 .started, noOp 2 4 .fetched]).mayStart (qnum 0 5) (noOp 2 4 .fetched) = false) ∧
    (fetching [noOp 1 1 .fetched]).startFailure (qnum 0 5) (noOp 1 1 .fetched) = some Status.descFieldRange := by decide +kernel
/-- Entry 1 has not ended, entry 2 has failed. -/
def failing : List Entry := [noOp 1 0 .started, noOp 2 0 (.ended Status.busy)]
theorem wit_EntryCompleted :
    (((fetching [noOp 1 8 (.ended Status.ok), noOp 2 0 .started]).queue (qnum 0 5)).entry (1#48).toNat = some (noOp 1 8 (.ended Status.ok)) ∧
      (noOp 1 8 (.ended Status.ok)).stat = .ended Status.ok ∧
      ((fetching [noOp 1 8 (.ended Status.ok), noOp 2 0 .started]).queue (qnum 0 5)).entries =
        noOp 1 8 (.ended Status.ok) :: [noOp 2 0 .started] ∧
      (1#48).toNat = ((fetching [noOp 1 8 (.ended Status.ok), noOp 2 0 .started]).queue (qnum 0 5)).done + 1 ∧
      (∀ y ∈ [noOp 2 0 .started], y.seq ≠ (noOp 1 8 (.ended Status.ok)).seq ∧ (y.stat = .fetched ∨ y.stat = .started)) ∧
      (noOp 1 8 (.ended Status.ok)).desc.irq = true ∧ (noOp 1 0 (.ended Status.ok)).desc.irq = false ∧
      bitAt ((fetching []).queue (qnum 0 5)).cplBase 0 = false ∧ (1#48).toNat % 2 ^ ((fetching []).queue (qnum 0 5)).log2 < 2 ^ 22) ∧
    (2#48).toNat ≠ ((fetching [noOp 1 0 .started, noOp 2 0 (.ended Status.ok)]).queue (qnum 0 5)).done + 1 ∧
    (Status.busy ≠ Status.ok ∧ ((fetching failing).queue (qnum 0 5)).entry (2#48).toNat = some (noOp 2 0 (.ended Status.busy)) ∧
      ∀ y ∈ ((fetching failing).queue (qnum 0 5)).entries, (∃ k, y.stat = .ended k) → y = noOp 2 0 (.ended Status.busy)) := by
  refine ⟨by decide +kernel, by decide +kernel, by decide +kernel, by decide +kernel, fun y h e => ?_⟩
  have o : y = noOp 1 0 .started ∨ y = noOp 2 0 (.ended Status.busy) := by
    have q : ((fetching failing).queue (qnum 0 5)).entries = failing := by decide +kernel
    rw [q] at h; simpa [failing] using h
  rcases o with rfl | rfl
  · obtain ⟨k, hk⟩ := e; cases hk
  · rfl

def halted : State := live.setQueue 5 { enable := true, halted := true }
def preparedQ : State := live.setGroup (gkey 0 5)
  { prep := some { num := 1, kind := 0, tag := 0, banks := 0, dataPos := 0, replay := false, restoring := false } }
theorem wit_QueueControl : halted.power.ready = true ∧ halted.mayControl (qnum 0 5) 0 = true ∧ (halted.queue (qnum 0 5)).halted = true ∧ halted.preparedFor (qnum 0 5) = false ∧
    (halted.queue (qnum 0 5)).paired = false ∧ (live.queue (qnum 0 5)).halted = false ∧ halted.preparedFor (qnum 0 5) = false ∧
    preparedQ.mayControl (qnum 0 5) 0 = true ∧ preparedQ.preparedFor (qnum 0 5) = true ∧ live.mayWrite (qnum 0 5) 0 = true ∧
    (live.queue (qnum 0 5)).enable = false ∧ (live.binding (qnum 0 5)).isSome = true ∧ bitAt (0x40 : Word) 7 = false ∧
    halted.mayWrite (qnum 0 5) 0 = true ∧ (halted.queue (qnum 0 5)).enable = true ∧ live.mayWrite (qnum 0 5) 1 = false := by decide +kernel
theorem wit_EngineEnds : Started (State.running live (body 0 0 0 0 0 0 0)) 0 0 1 (body 0 0 0 0 0 0 0) ∧ (body 0 0 0 0 0 0 0).cls = 0 :=
  ⟨started_running _ _ (by decide) (by decide +kernel), by decide +kernel⟩

/-! ### The array, the vector engine, updates -/

/-- OP 0 on West: 2 x 4 by 4 x 3, INT8, strides of 1; and the ganged and gradient forms. -/
def product (op half m k n : Nat) : Desc :=
  body 1 (packWord [(op, 61), (half, 60), (8, 56), (8, 52), (1, 41)]) (packWord [(m, 53), (k, 42), (n, 31)]) 0
    (packWord [(1024, 38)]) (packWord [(1, 48), (1, 32)]) 0
def gradProduct : Desc :=
  body 1 (packWord [(2, 61), (1, 56), (1, 52)]) (packWord [(2, 53), (4, 42), (3, 31)]) 0 (packWord [(4096, 38)])
    (packWord [(1, 48), (1, 32)]) 0
def running1 : State := State.running live (product 0 0 2 4 3)
def ganged1 : State := State.running (liveWith (image 1 0 0 [])) (product 1 0 2 4 3)
def grad1 : State := State.running (liveWith (image 2 0 0 [])) gradProduct
theorem ready_of (s : State) (x : ArrayDesc) (h : s.arrayBad 0 x = false ∧ s.arrayIllegal 0 0 x = false ∧
    vatCheck (s.groupOwns 0 (s.bind 0).group) noCurds x.spans = none ∧ s.arrayFenced 0 x = false ∧
    (∀ b ∈ x.banks 0, (s.bank b.1).held = false) ∧ s.vatErrors 0 (x.spans.filter (fun y => !y.write)) .correctable = [] ∧
    s.vatErrors 0 (x.spans.filter (fun y => !y.write)) .uncorrectable = []) : ArrayReady s 0 0 x :=
  ⟨h.1, by simpa [qnum] using h.2.1, by simpa [qnum] using h.2.2.1, h.2.2.2⟩
/-- Two queues that both need both halves: the one with the older grant is next. -/
def sharing : State := { ((liveWith (image 1 0 0 [])).setQueue 5 { enable := true, accepted := 1, entries := [{ seq := 1, desc := product 1 0 2 4 3, stat := .fetched }] }).setQueue 6
  { enable := true, accepted := 1, entries := [{ seq := 1, desc := product 1 0 2 4 3, stat := .fetched }] } with grants := 2, lastGrant := [(5, 2), (6, 1)] }
theorem test_oldest_grant_next : ((sharing.startEntry 5).queue 5).entries = (sharing.queue 5).entries ∧
    (sharing.startEntry 6).lastGrant = [(5, 2), (6, 3)] := by decide +kernel
theorem wit_ArrayDescriptors_oneHalf : (Started running1 0 0 1 (product 0 0 2 4 3) ∧ (product 0 0 2 4 3).cls = 1 ∧
    (product 0 0 2 4 3).op = 0 ∧ (arrayOf (product 0 0 2 4 3)).n ≤ 512 ∧ (arrayOf (product 0 0 2 4 3)).release = true) ∧
    ArrayReady running1 0 0 (arrayOf (product 0 0 2 4 3)) :=
  ⟨⟨started_running _ _ (by decide) (by decide +kernel), by decide +kernel⟩, ready_of _ _ (by decide +kernel)⟩
theorem wit_ArrayDescriptors_others : (product 1 0 2 4 3).op = 1 ∧ gradProduct.op = 2 ∧
    ArrayReady ganged1 0 0 (arrayOf (product 1 0 2 4 3)) ∧ ArrayReady grad1 0 0 (arrayOf gradProduct) :=
  ⟨by decide +kernel, by decide +kernel, ready_of _ _ (by decide +kernel), ready_of _ _ (by decide +kernel)⟩
/-- A bank in the hands of read-out, a contraction of 0 rows, a product of the other mode. -/
theorem wit_ArrayDescriptors_ends : (∃ b ∈ (arrayOf (product 0 0 2 4 3)).banks 0,
      ((running1.setBank (bkey 0 .west 0) { held := true }).bank b.1).held = true) ∧
    running1.arrayBad 0 (arrayOf (product 0 0 2 0 3)) = true ∧
    (running1.arrayBad 0 (arrayOf (product 1 0 2 4 3)) = false ∧ running1.arrayIllegal 0 (qnum 0 0) (arrayOf (product 1 0 2 4 3)) = true) := by
  decide +kernel

/-- One row of INT8: every element is 3 and 5, three contraction steps. -/
def intProduct : Product := { (arrayOf (product 0 0 1 3 1)).main (fun _ => 0) (fun _ _ => (0, 127)) with
  a := fun _ _ => (3, 127), b := fun _ _ => (5, 127) }
theorem wit_IntegerEntries : isInt intProduct.fmtS = true ∧ isInt intProduct.fmtT = true ∧
    (∀ r : Nat, decodeElem intProduct.fmtS (intProduct.a 0 r).1 = .fin 3 0) ∧
    (∀ r : Nat, decodeElem intProduct.fmtT (intProduct.b r 0).1 = .fin 5 0) ∧
    intProduct.mask = 0 ∧ intProduct.nf2 = false ∧ intProduct.k ≤ kCap intProduct.fmtS intProduct.fmtT :=
  ⟨by decide +kernel, by decide +kernel, fun _ => by change decodeElem 8 3 = _; decide +kernel, fun _ => by change decodeElem 8 5 = _; decide +kernel, by decide +kernel, by decide +kernel,
    by decide +kernel⟩

/-- A range within one page. -/
theorem range_in_page (s : State) (t p n : Nat) (a : Int) (h1 : (p : Int) * 4096 ≤ a) (h2 : a + n ≤ ((p : Int) + 1) * 4096)
    (h : PageGood s t p) : RangeGood s t a n := by
  intro q hq hr
  have : q = p := by omega
  exact this ▸ h

/-- KIND 0: two rows of four binary32 elements from 0 to curd 1; KIND 1: the same from bank 0 of West, which it returns. -/
def tensor : Desc := body 2 (packWord [(1, 32)]) (packWord [(2, 43), (4, 26)]) 0 (packWord [(15, 8)]) (packWord [(65536, 38)]) 0
def readout : Desc :=
  body 2 (packWord [(1, 62), (1, 53), (1, 32)]) (packWord [(2, 43), (4, 26)]) (packWord [(15, 8)]) (packWord [(15, 8)])
    (packWord [(65536, 38)]) 0
def loadChain : Desc := body 2 (packWord [(2, 62), (5, 56)]) 0 (packWord [(64, 38)]) 0 0 0
def reading : State := (State.running live readout).setBank (bkey 0 .west 0) { held := true }
theorem vec_ready_of (s : State) (y : Desc) (x : VecDesc) (h : s.vecBad 0 x (s.chainFor 0 y) = false ∧
    s.vecIllegal 0 0 x (s.chainFor 0 y) (s.streamFor 0 y) = false ∧
    vatCheck (s.groupOwns 0 (s.bind 0).group) noCurds x.spans = none ∧ (∀ h ∈ x.halves, s.fencedAt 0 h = false) ∧
    s.spanFenced 0 x.spans = false ∧
    (x.kind = 1 → ∀ k ∈ x.banks 0, (s.bank k).held = true ∧ (s.bank k).ofTenant (s.ownerOf 0) = true) ∧
    s.vatErrors 0 (x.spans.filter (fun y => !y.write)) .correctable = [] ∧
    s.vatErrors 0 (x.spans.filter (fun y => !y.write)) .uncorrectable = []) : VectorReady s 0 0 y x :=
  ⟨by simpa [qnum] using h.1, by simpa [qnum] using h.2.1, by simpa [qnum] using h.2.2.1, h.2.2.2.1, h.2.2.2.2.1,
    by simpa [qnum] using h.2.2.2.2.2.1, h.2.2.2.2.2.2⟩
theorem wit_VectorDescriptors_tensor : (Started (State.running live tensor) 0 0 1 tensor ∧ tensor.cls = 2 ∧ tensor.op = 0 ∧
    (vecOf tensor).ret = false) ∧ VectorReady (State.running live tensor) 0 0 tensor (vecOf tensor) :=
  ⟨⟨started_running _ _ (by decide) (by decide +kernel), by decide +kernel⟩,
    vec_ready_of _ _ _ (by decide +kernel)⟩
theorem wit_VectorDescriptors_readout : VectorReady reading 0 0 readout (vecOf readout) ∧ readout.op = 1 ∧ (vecOf readout).ret = true ∧
    (∃ k ∈ (vecOf readout).banks 0, ((State.running live readout).bank k).held = false) ∧
    live.vecBad 0 (vecOf (body 2 0 0 0 0 0 0)) (live.chain 0) = true :=
  ⟨vec_ready_of _ _ _ (by decide +kernel), by decide +kernel⟩
/-- A record whose first operation word is END, and one whose first word has a reserved operation 20. -/
theorem wit_VectorDescriptors_chainLoad (sp : Span) (h : sp = { base := 64, rowBytes := 160, stride := 0, rows := 1, write := false }) :
    loadChain.op = 2 ∧ (vecOf loadChain).a.addr = 64 ∧ chainLoadBad loadChain (vecOf loadChain) sp = false ∧
    ((State.running live loadChain).chain (dkey 0 64 (vecOf loadChain).slot)).serves 0 = true ∧
    vatCheck ((State.running live loadChain).groupOwns 0 ((State.running live loadChain).bind 0).group) noCurds [sp] = none ∧
    (State.running live loadChain).spanFenced 0 [sp] = false ∧
    chainOps (words32 ((State.running live loadChain).vatBytes 0 64 160) 32) = some [] ∧
    (chainOps (words32 (((State.running live loadChain).setVatByte 67 0x50).vatBytes 0 64 160) 32) = none) ∧ VatSound (State.running live loadChain) 0 [sp] := by
  subst h
  unfold VatSound; decide +kernel

/-! ### Memory and updates -/

/-- Pages 5 and 6 are tenant 0's. -/
def pages : State := { live with tags := [(5, { assigned := true }), (6, { assigned := true })] }
/-- Two rows of 8 bytes from the Vat to page 5, from page 5 to host memory, from page 5 to page 6. -/
def copyOf (src dst sa da : Nat) : Desc :=
  body 3 (packWord [(src, 59), (dst, 57), (2, 0)]) (packWord [(8, 32)]) (packWord [(sa, 0)]) (packWord [(da, 0)])
    (packWord [(16, 32), (16, 0)]) 0
theorem page_good (p : Nat) (x : Desc) (h : p = 5 ∨ p = 6) : PageGood (State.running pages x) 0 p := by
  rcases h with rfl | rfl
  · exact ⟨rfl, rfl, rfl, rfl, rfl, rfl, rfl, rfl, by show State.sealedPage pages 5 = false; decide +kernel⟩
  · exact ⟨rfl, rfl, rfl, rfl, rfl, rfl, rfl, rfl, by show State.sealedPage pages 6 = false; decide +kernel⟩
def copies (src dst sa da : Nat) : State := State.running pages (copyOf src dst sa da)
def CopyReady (src dst sa da : Nat) : Prop :=
  (copyOf src dst sa da).cls = 3 ∧ (copyOf src dst sa da).op = 0 ∧ (memOf (copyOf src dst sa da)).bad 0 = false ∧
  (copies src dst sa da).ownerOf (qnum 0 0) = 0 ∧
  vatCheck ((copies src dst sa da).groupOwns 0 ((copies src dst sa da).bind (qnum 0 0)).group) ((copies src dst sa da).debugCurds 0 0)
    (memOf (copyOf src dst sa da)).spans = none ∧
  (copies src dst sa da).spanFenced 0 (memOf (copyOf src dst sa da)).spans = false
theorem wit_CopiesAreExact : Started (copies 1 0 0 0x5000) 0 0 1 (copyOf 1 0 0 0x5000) ∧
    CopyReady 1 0 0 0x5000 ∧ CopyReady 0 2 0x5000 0 ∧ CopyReady 0 0 0x5000 0x6000 ∧ CopyReady 0 1 0x5000 0 ∧
    VatSound (copies 1 0 0 0x5000) 0 (memOf (copyOf 1 0 0 0x5000)).spans ∧
    (∀ r : Nat, r < 2 → RangeGood (copies 0 0 0x5000 0x6000) 0 ((0x5000 + r * 16 : Nat) : Int) 8 ∧
      RangeGood (copies 0 0 0x5000 0x6000) 0 ((0x6000 + r * 16 : Nat) : Int) 8) := by
  refine ⟨started_running _ _ (by decide) (by decide +kernel), by unfold CopyReady; decide +kernel, by unfold CopyReady; decide +kernel,
    by unfold CopyReady; decide +kernel, by unfold CopyReady; decide +kernel, ⟨by decide +kernel, by decide +kernel⟩, fun r hr => ⟨?_, ?_⟩⟩
  · exact range_in_page _ _ 5 _ _ (by omega) (by omega) (page_good 5 _ (.inl rfl))
  · exact range_in_page _ _ 6 _ _ (by omega) (by omega) (page_good 6 _ (.inr rfl))

/-- Two pages from page 7 on for tenant 0; the release of pages 5 and 6. -/
def assign (p : Nat) : Desc := body 3 (packWord [(1, 61), (1, 55), (1, 54), (2, 0)]) (packWord [(4096, 32)]) 0 (packWord [(p * 4096, 0)]) 0 0
def release (p : Nat) : Desc := body 3 (packWord [(2, 61), (2, 0)]) (packWord [(4096, 32)]) 0 (packWord [(p * 4096, 0)]) 0 0
theorem wit_PageOwnership : Started (State.running pages (assign 7)) 0 0 1 (assign 7) ∧ (assign 7).cls = 3 ∧ (assign 7).op = 1 ∧
    (memOf (assign 7)).bad 0 = false ∧ (State.running pages (assign 7)).memIllegal (qnum 0 0) (memOf (assign 7)) = false ∧
    ((State.running pages (assign 7)).tenant 0).hasKey ((State.running pages (assign 7)).tenant 0).newest = true ∧
    (∀ i, i < 2 → ((State.running pages (assign 7)).tag (pageOf 0x7000 + i)).assigned = false) ∧
    ((State.running pages (assign 6)).tag (pageOf 0x6000)).assigned = true ∧ (release 5).op = 2 ∧ (memOf (release 5)).bad 0 = false ∧
    (∀ i, i < 2 → ((State.running pages (release 5)).tag (pageOf 0x5000 + i)).assigned = true) ∧
    ((State.running pages (release 7)).tag (pageOf 0x7000)).assigned = false :=
  ⟨started_running _ _ (by decide) (by decide +kernel), by decide +kernel⟩
theorem wit_MemoryStaysCanonical : (copies 0 0 0x5000 0x6000).memoryOk = true ∧
    ∃ t, exec (.copy 0 0 1) (copies 0 0 0x5000 0x6000) = .next t := ⟨by decide +kernel, _, rfl⟩

/-- OPT `opt` on 8 parameters of page 5, bank 1 at page 6: a stream of class 3, records in page 5 as well. -/
def update (opt count : Nat) : Desc :=
  body 4 (packWord [(opt, 62), (count, 0)]) (packWord [(5, 34), (6, 4)]) (packWord [(if opt = 1 then 7 else 0, 34)])
    (packWord [(8, 34)]) (packWord [(9 * 64, 28)]) (packWord [(2, 40), (5, 2)])
def updating (opt : Nat) : State := State.running { liveWith { image 0 0 0 [] with
    queues := [packWord [(0, 52), (1023, 42), (2, 40), (1, 32), (3, 30)]] } with
  tags := [(5, { assigned := true }), (6, { assigned := true }), (7, { assigned := true }), (8, { assigned := true }),
    (9, { assigned := true }), (10, { assigned := true }), (11, { assigned := true }), (12, { assigned := true })] } (update opt 8)
theorem upd_page (p : Nat) (h : 5 ≤ p ∧ p ≤ 12) : PageGood (updating 1) 0 p := by
  obtain ⟨h1, h2⟩ := h
  have : p = 5 ∨ p = 6 ∨ p = 7 ∨ p = 8 ∨ p = 9 ∨ p = 10 ∨ p = 11 ∨ p = 12 := by omega
  rcases this with rfl | rfl | rfl | rfl | rfl | rfl | rfl | rfl <;> (unfold PageGood; decide +kernel)
theorem wit_UpdateDescriptors : Started (updating 1) 0 0 1 (update 1 8) ∧ (update 1 8).cls = 4 ∧ (update 0 8).op = 0 ∧
    (update 1 8).op = 1 ∧ (update 2 8).op = 2 ∧ (updOf (update 0 8)).bad 0 = false ∧ (updOf (update 1 8)).bad 0 = false ∧
    (updOf (update 2 8)).bad 0 = false ∧ (updating 1).updIllegal 0 (qnum 0 0) (updOf (update 1 8)) ((updating 1).streamFor (qnum 0 0) (update 1 8)) = false ∧
    ((updating 1).die 0).fenced = false ∧
    (updOf (update 0 0)).bad 0 = true ∧ (((updating 1).modDie 0 (fun x => { x with fenced := true })).die 0).fenced = true := by
  refine ⟨started_running _ _ (by decide) (by decide +kernel), by decide +kernel⟩
theorem wit_UpdateDescriptors_pages :
    ∀ r ∈ (updOf (update 1 8)).reads ++ (updOf (update 1 8)).writes, RangeGood (updating 1) 0 r.1 r.2 := by
  have h : (updOf (update 1 8)).reads ++ (updOf (update 1 8)).writes =
      [(0x5000, 32), (0x6000, 32), (0x8000, 32), (0x9000, 64), (0x7000, 32), (0xA000, 32), (0xB000, 32), (0xC000, 32)] := by decide +kernel
  rw [h]
  intro r hr
  simp only [List.mem_cons, List.not_mem_nil, or_false] at hr
  rcases hr with rfl | rfl | rfl | rfl | rfl | rfl | rfl | rfl
  · exact range_in_page _ _ 5 _ _ (by omega) (by omega) (upd_page _ (by omega))
  · exact range_in_page _ _ 6 _ _ (by omega) (by omega) (upd_page _ (by omega))
  · exact range_in_page _ _ 8 _ _ (by omega) (by omega) (upd_page _ (by omega))
  · exact range_in_page _ _ 9 _ _ (by omega) (by omega) (upd_page _ (by omega))
  · exact range_in_page _ _ 7 _ _ (by omega) (by omega) (upd_page _ (by omega))
  · exact range_in_page _ _ 10 _ _ (by omega) (by omega) (upd_page _ (by omega))
  · exact range_in_page _ _ 11 _ _ (by omega) (by omega) (upd_page _ (by omega))
  · exact range_in_page _ _ 12 _ _ (by omega) (by omega) (upd_page _ (by omega))

/-! ### Images and the turn -/

/-- Both slots resident, KIND 1 active; die 0 lets its press use the Vat and has every format. -/
def learnImage : Image := { image 0 0 0 [] with
  kind := 2, curds := [packWord [(0, 52), (640, 42), (2, 40), (1, 31)]] }
def bothKinds : State := { live with img := { live.img with learn := { image := some learnImage } } }
def inTurn (st : TurnState) (n : BitVec 22) : State := { liveWith learnImage with
  img := { bothKinds.img with turnState := st, target := 2, expected := n, mapBase := 0x8000, pressBase := 0x4000, pressCount := 2 }
  shardTable := 0x9000
  tags := [(5, { assigned := true }), (6, { assigned := true }), (7, { assigned := true })] }

/-- The fields of a learning image of 768 bytes with empty curd, queue and routing sections, its key in slot 7, by offset. -/
def imageFields : List (Nat × Nat) :=
  [(0, 0x0003_414E5247), (8, 768 * 2 ^ 32 + 8 * 2 ^ 16 + 7 * 256 + 2), (0x10, 0x0F03 * 2 ^ 32 + 1), (0x80, 0x100 * 2 ^ 32 + 0x40001),
    (0x88, 32), (0x90, 2), (0xA0, 3), (0xB0, 4), (0xC0, 0x140 * 2 ^ 32 + 0x90005), (0xC8, 72), (0xD0, 0x1C0 * 2 ^ 32 + 0x10006),
    (0xD8, 8), (0xE0, 0x200 * 2 ^ 32 + 0x20007), (0xE8, 16), (0xF0, 0x240 * 2 ^ 32 + 0x50008), (0xF8, 40), (0x108, 16), (0x110, 32),
    (0x118, 48), (0x1C0, 0x400), (0x280, 1)] ++
  (List.range 8).map (fun p => (0x148 + 8 * p, p * 2 ^ 61)) ++ (List.range 4).map (fun d => (0x248 + 8 * d, d * 2 ^ 62))
def imageByte (o : Nat) : Byte := BitVec.ofNat 8 ((imageFields.foldl (fun n f => n + f.2 <<< (8 * f.1)) 0) >>> (8 * o))
def loadingIt : State := State.setHost { rdy with
  img := { work := .loading 0x1000 768 false }, store := { imgKeys := [(7, { val := { state := 1, key := [1] } })] } } 0 0x1000
  ((List.range 768).map imageByte)
def itsBytes : Nat → Byte := fun o => if o < (768#32).toNat then loadingIt.hostByte (hkey 0 ((0x1000#64).toNat + o)) else 0
theorem its_eq : itsBytes = fun o => if o < 768 then imageByte o else 0 := by
  funext o
  by_cases ho : o < 768
  · have h : hkey 0 ((0x1000#64).toNat + o) = hkey 0 0x1000 + o := hkey_add (by
      have : (0x1000#64).toNat = 4096 := rfl
      omega)
    have h2 := SMap.get_setRun_same (dflt := (0 : Byte)) rdy.host (hkey 0 0x1000) ((List.range 768).map imageByte) o (by simpa using ho)
    simp only [itsBytes, if_pos (show o < (768#32).toNat from ho), if_pos ho, h, State.hostByte, loadingIt, State.setHost] at h2 ⊢
    rw [h2]; simp
  · simp only [itsBytes, if_neg (show ¬ o < (768#32).toNat from ho), if_neg ho]
theorem imageCheck_passes (s : State) (rd : Nat → Byte) (len : Nat)
    (h5 : s.signatureOk rd len (rd 9).toNat = true) (h : ¬ (rdNat rd 0xC 4 ≠ len ∨ len % 64 ≠ 0 ∨ len < 768 ∨ 1048576 < len) ∧
      headerCheck rd = none ∧ (rd 8).toNat ≠ s.img.activeKind.toNat ∧ s.keyEnrolled (rd 9).toNat = true ∧
      ¬ rdNat rd 0x10 4 < s.store.floor (rd 8).toNat ∧ (List.range 8).find? (sectionBad rd len) = none ∧ recordCheck rd len = none ∧
      s.bypassCheck (sectionRecs rd 8) = none ∧ lowest (clashes (runClash 0) [] (sectionRecs rd 2)) = none ∧
      lowest (clashes (runClash 1) [] (sectionRecs rd 3)) = none ∧ lowest (clashes portClash [] ((sectionRecs rd 5).drop 1)) = none ∧
      tenantCheck rd = none ∧ residentCheck rd (s.img.slot (3 - (rd 8).toNat)).image = none) :
    s.imageCheck false false rd len = none := by
  obtain ⟨h0, h1, h2, h4, h6, h7, h8, h9, h10, h11, h12, h13, h14⟩ := h
  rw [State.imageCheck]
  simp only [if_neg h0, h1, if_neg h2, h4, h5, if_neg h6, h7, h8, h9, h10, h11, h12, h13, h14, if_false, Bool.not_true, Bool.false_eq_true]
/-- Whether a signature verifies no state shows (log 2): the image passes where it does. -/
theorem wit_Images_load (h : loadingIt.signatureOk itsBytes 768 (itsBytes 9).toNat = true) :
    loadingIt.img.work = .loading 0x1000 768 false ∧ loadingIt.imageCheck false false itsBytes 768 = none ∧
    loadingIt.imageCheck true true itsBytes 768 = some (Status.imgDmaFail, 0) := by
  refine ⟨rfl, ?_, rfl⟩
  rw [its_eq] at h ⊢
  exact imageCheck_passes _ _ _ h (by decide +kernel)
theorem wit_Images_discard : live.power.ready = true ∧ live.img.work = .none ∧ bitAt (0x100 : Word) 1 = false ∧ bitAt (0x102 : Word) 0 = false ∧
    fld (0x300 : Word) 9 8 = 3 ∧ fld (0x002 : Word) 9 8 = 0 ∧ fld (0x102 : Word) 9 8 = 1 ∧ fld (0x202 : Word) 9 8 = 2 ∧
    bothKinds.img.turnState = .idle ∧ (bothKinds.img.slot 1).image.isSome = true ∧ (bothKinds.img.slot 2).image.isSome = true ∧
    1 = bothKinds.img.activeKind.toNat ∧ 2 ≠ bothKinds.img.activeKind.toNat ∧
    (∃ s : State, s.img.work = .discarding 2 ∧ (s.img.slot (2#2).toNat).erasing = true) ∧
    (∃ s : State, s.img.work = .discarding 1 ∧ (s.img.slot (1#2).toNat).erasing = false ∧ s.img.turnState = .switch ∧ s.takesPart 0) ∧
    ∃ s : State, s.img.work = .discarding 1 ∧ (s.img.slot (1#2).toNat).erasing = false ∧ s.img.turnState ≠ .switch :=
  ⟨rfl, rfl, rfl, rfl, rfl, rfl, rfl, rfl, rfl, rfl, rfl, rfl, by decide,
    ⟨{ img := { work := .discarding 2, learn := { erasing := true } } }, by decide⟩,
    ⟨{ img := { work := .discarding 1, turnState := .switch } }, by decide, by decide, by decide, by decide, by decide⟩,
    ⟨{ img := { work := .discarding 1 } }, by decide⟩⟩

/-- Queue 0 of die 0 has started an entry beyond COMMITTED. -/
def turnable : State := bothKinds.setQueue 0 (busyQueue (body 0 0 0 0 0 0 0))
theorem holds_none (s : State) (h : ∀ p, p < 8 → (s.port p).held = []) : s.holdsShards := fun p hp f hf => by
  rw [h p hp] at hf; cases hf
theorem wit_TurnControl : turnable.power.ready = true ∧ turnable.startRefusal (fld (0x0 : Word) 2 1) = some Status.turnBadParam ∧
    turnable.startRefusal (fld (0x3 : Word) 2 1) = some Status.illegalInState ∧ bitAt (0x5 : Word) 3 = false ∧
    fld (0x5 : Word) 2 1 = 2 ∧ turnable.img.turnState = .idle ∧ turnable.img.work = .none ∧ 2 ≠ turnable.img.activeKind.toNat ∧
    (turnable.img.slot 2).image.isSome = true ∧ turnable.img.pressBase.toNat % 64 = 0 ∧ turnable.img.mapBase.toNat % 64 = 0 ∧ turnable.img.weightsNext.toNat % 64 = 0 ∧
    (turnable.queue 0).enable = true ∧ turnable.drainsHere 0 = false ∧
    ((turnable.setQueue 1 { enable := true }).queue 1).enable = true ∧ (turnable.setQueue 1 { enable := true }).drainsHere 1 = true ∧
    (∀ R ∈ members (turnable.setQueue 1 { enable := true }) (groupOf (turnable.setQueue 1 { enable := true }) 1),
      (turnable.setQueue 1 { enable := true }).drainsHere R = true) := by decide +kernel
theorem wit_TurnControl_others : (inTurn .drain 0).img.turnState = .drain ∧ (inTurn .drain 0).img.discarding = false ∧
    (inTurn .drain 0).holdsShards ∧ (inTurn .press 0).img.turnState = .press ∧ (inTurn .await 0).img.turnState = .await ∧
    (inTurn .switch 0).img.turnState = .switch ∧ (inTurn .drain 0).allDrained = true ∧
    ((inTurn .drain 0).setQueue 0 { busyQueue (body 0 0 0 0 0 0 0) with drain := .nextCommit 0 }).allDrained = false ∧
    (inTurn .rollback 0).img.turnState = .rollback ∧ (inTurn .rollback 0).takesPart 3 ∧
    { inTurn .drain 0 with ports := [(7, { held := [longFrame 2 0] })] }.holdsShards := by
  refine ⟨rfl, rfl, holds_none _ (by decide), rfl, rfl, rfl, by decide, by decide, rfl, by unfold State.takesPart; decide,
    by unfold State.holdsShards; decide +kernel⟩

/-- Shard 0 of two rows of four binary32 elements of page 5, unconverted, to page 6; and a list of two zero descriptors. -/
def pressRec : Desc :=
  { w00 := packWord [(0, 62)], w08 := packWord [(5, 34), (2, 0)], w10 := packWord [(4, 0)], w18 := packWord [(6, 34)]
    w20 := packWord [(1, 48), (1, 32)], w28 := 0, w30 := 0, w38 := 0 }
def descBytes (x : Desc) : List Byte := ([x.w00, x.w08, x.w10, x.w18, x.w20, x.w28, x.w30, x.w38].map (fun w => leBytes 8 w.toNat)).flatten
def pressing : State := (inTurn .press 1).setHbm 0x4000 (descBytes pressRec)
theorem press_page (p : Nat) (h : p = 5 ∨ p = 6) : PageGood pressing 0 p := by
  rcases h with rfl | rfl <;> (unfold PageGood; decide +kernel)
theorem wit_TurnSteps_switch : (inTurn .switch 2).img.turnState = .switch ∧ (inTurn .switch 2).img.discarding = false ∧
    (inTurn .switch 2).img.switchFenced = false ∧ (inTurn .switch 2).img.abortWaiting = false ∧ (inTurn .switch 2).takesPart 0 ∧
    (1 < (inTurn .switch 2).shardCount ∧ (inTurn .switch 2).power.hbmOff = false ∧
      (inTurn .switch 2).img.mapBase.toNat + (inTurn .switch 2).shardCount ≤ (inTurn .switch 2).shardTable.toNat) ∧
    ∃ s : State, s.img.turnState = .switch ∧ s.img.discarding = false ∧ s.img.switchFenced = true :=
  ⟨rfl, rfl, rfl, rfl, by unfold State.takesPart; decide, by decide, ⟨{ img := { turnState := .switch, switchFenced := true } }, by decide⟩⟩
theorem wit_TurnSteps_press : (pressing.img.turnState = .press ∧ pressing.power.hbmOff = false ∧
    pressing.pressFind (0 : DieId).val (pressing.die 0).pressNext = some 0 ∧ pressing.img.pressBase.toNat + 64 * 0 = 0x4000 ∧
    pressOf (descOfBytes (pressing.hbmBytes 0x4000 64)) = pressOf pressRec ∧ (pressing.tag (pageOf (pressOf pressRec).src.addr)).owner = 0 ∧
    pressing.pressCheck (pressOf pressRec) 0 = none ∧ pressing.shardState (pressOf pressRec).shard ≠ 1) ∧
    (∀ r ∈ (pressOf pressRec).src.hbmSpan (pressOf pressRec).srcRows (pressOf pressRec).srcCols, RangeGood pressing 0 (r.1 : Nat) r.2) ∧
    (∃ bs : List Byte, bs = (pressOf pressRec).bytes ((List.range (pressOf pressRec).rows).map (fun j =>
        (pressOf pressRec).row pressing.hbmRd (pressing.stream (dkey (pressOf pressRec).die 2048 (pressOf pressRec).stream)).com j)) ∧
      RangeGood pressing 0 ((pressOf pressRec).dst : Nat) bs.length ∧
      (pressOf pressRec).dst + bs.length ≤ pressing.mapAt (pressOf pressRec).shard) ∧
    (inTurn .press 1).pressCheck (pressOf (descOfBytes ((inTurn .press 1).hbmBytes 0x4000 64))) 0 = some Status.descFieldRange := by
  refine ⟨by decide +kernel, ?_,
    ⟨_, rfl, ?_, by decide +kernel⟩, by decide +kernel⟩
  · have h : (pressOf pressRec).src.hbmSpan (pressOf pressRec).srcRows (pressOf pressRec).srcCols = [(0x5000, 528)] := by decide +kernel
    rw [h]; intro r hr; simp only [List.mem_cons, List.not_mem_nil, or_false] at hr; subst hr
    exact range_in_page _ _ 5 _ _ (by omega) (by omega) (press_page 5 (.inl rfl))
  · have h : (pressOf pressRec).dst = 0x6000 := by decide +kernel
    rw [h, show List.length _ = 1024 from by decide +kernel]
    exact range_in_page _ _ 6 _ _ (by omega) (by omega) (press_page 6 (.inr rfl))
/-- Both shards present, one of them awaited; a resend. -/
def mapped (st : TurnState) (m : Byte) (got : BitVec 32) : State :=
  { (inTurn st 2).setHbm 0x8000 [m] with img := { (inTurn st 2).img with present := got, pressCount := 0 } }
theorem wit_TurnSteps_ends : (mapped .press 5 2).img.turnState = .press ∧ (mapped .press 5 2).pressAllDone = true ∧
    (mapped .press 5 2).img.present.toNat = (mapped .press 5 2).shardCount ∧
    (mapped .press 1 1).img.present.toNat ≠ (mapped .press 1 1).shardCount ∧ pressing.pressAllDone = false ∧
    (1 < (mapped .await 1 1).shardCount ∧ (mapped .await 1 1).shardState 1 = 0 ∧ (mapped .await 1 1).shardState 0 = 1) ∧
    (fld (packWord [(1, 42), (1, 26)]) 63 42 < (mapped .await 5 2).shardCount ∧
      (mapped .await 5 2).shardState (fld (packWord [(1, 42), (1, 26)]) 63 42) = 1 ∧ fld (packWord [(1, 42), (1, 26)]) 33 26 ≠ 0) ∧
    (mapped .await 5 2).shardCount ≤ fld (packWord [(2, 42), (1, 26)]) 63 42 ∧ fld (packWord [(1, 42)]) 33 26 = 0 := by decide +kernel
/-- The copy of shard 1 lies on page 5, of CLASS weights, under a policy that seals weights or not. -/
def resending (p : Word) : State := { mapped .await 5 2 with
  img := { (mapped .await 5 2).img with activeKind := 2, serve := {}, learn := { image := some { learnImage with policy := p } }, copies := [(1, some (0x5000, 64))] }
  tags := [(5, { assigned := true, cls := 1 })] }
theorem wit_TurnSteps_resend (p : Word) (h : p = 0 ∨ p = 0x10) : (resending p).power.ready = true ∧ (resending p).power.hbmOff = false ∧
    1 < (resending p).shardCount ∧ (resending p).shardState 1 = 1 ∧ (resending p).shardCopy 1 = (0x5000, 64) ∧ rangePages 0x5000 64 = [5] ∧
    (resending p).sealedPage 5 = decide (p = 0x10) := by rcases h with rfl | rfl <;> decide +kernel
/-- No curd of the target is the press's. -/
def curdless : State := { pressing with dies := [(0, { image := some { learnImage with curds := [] } })] }
theorem wit_TurnSteps_violation : curdless.pressCheck (pressOf pressRec) 0 = some Status.curdNotOwned ∧
    curdless.pressFind (0 : DieId).val (curdless.die 0).pressNext = some 0 := by decide +kernel

/-! ### Ports and frames -/

/-- Die 0's ports: role 1 with PASS, and another role. -/
def portsImage (r : Nat) : Image := { linkImage with ports := [packWord [(0, 61), (1, 57), (1, 56)], packWord [(1, 61), (r, 57), (1, 56)]] }
def portsState (r : Nat) : State := { liveWith (portsImage r) with ports := [(0, upPort), (1, upPort)] }
def peerOf (r x side feed : Nat) : PeerId :=
  { serial := 0, coord := packWord [(x, 59), (side, 33)], role := BitVec.ofNat 4 r, feed := BitVec.ofNat 8 feed }
def trainingPort (p : Nat) (r : Nat) : State := (portsState r).setPort p { lanes := 8, state := .training }
theorem wit_Ports_training : (trainingPort 0 7).restState (0 : PortId).val = .training ∧ ((trainingPort 0 7).port 0).state = .training ∧
    peerFits (trainingPort 0 7).coord ((trainingPort 0 7).role 0) (peerOf 2 1 0 0) = true ∧ (trainingPort 0 7).role 0 ≠ 7 ∧
    peerFits (trainingPort 0 7).coord ((trainingPort 0 7).role 0) (peerOf 2 2 0 0) = false ∧
    (trainingPort 1 7).restState (1 : PortId).val = .training ∧ (trainingPort 1 7).role 1 = 7 ∧
    peerFits (trainingPort 1 7).coord ((trainingPort 1 7).role 1) (peerOf 7 0 1 0) = true ∧
    (peerOf 7 0 1 0).feed = (trainingPort 1 7).power.feedId ∧ ((trainingPort 0 7).port 0).lostShards = [] ∧
    ((trainingPort 0 7).port 0).lostMarkers = [] := by decide +kernel
def sentTimes (n lim : Nat) : Port :=
  { upPort with replayLimit := BitVec.ofNat 4 lim, unacked := (List.range n).map (fun i => { hdr := { hdr0 with lseq := BitVec.ofNat 12 i }, sends := 9, frame := idleFrame }) }
theorem wit_Ports_sending : (upPort.state = .up ∧ upPort.unacked.length < 512 ∧ upPort.next = none) ∧
    (∃ w, { upPort with waiting := [(8, longFrame 1 480)] }.next = some w) ∧ 512 ≤ (sentTimes 512 8).unacked.length ∧
    (sentTimes 511 8).unacked.length < 512 ∧ (sentTimes 1 8).atLimit = true ∧ (sentTimes 1 9).atLimit = false ∧
    ({} : Port).state ≠ .up ∧ ({} : Port).state ≠ .training ∧ ({} : Port).state ≠ .down ∧ ({ state := .down } : Port).state = .down ∧
    (0 : DieId) ≠ 3 :=
  ⟨by decide, ⟨(8, longFrame 1 480), by decide +kernel⟩, by decide +kernel⟩
theorem wit_LinkLevel : ((portsState 9).port 0).state = .up ∧ hdr0.lseq = ((portsState 9).port 0).rxSeq ∧ (portsState 9).accepts 0 hdr0 ∧
    vcFits { longFrame 1 0 with vc := 0 } = false ∧ { hdr0 with lseq := 1 }.lseq ≠ ((portsState 9).port 0).rxSeq ∧ carries ((portsState 9).role (0 : PortId).val) 5 = false ∧
    carries ((portsState 9).role (1 : PortId).val) 3 = false ∧ hdr0.credits = 0 ∧
    ({ state := .miswired } : Port).state = .miswired ∧ ({} : Port).state = .absent := by
  exact ⟨by decide, by decide, by unfold State.accepts; decide +kernel, by decide +kernel⟩

/-- In the press of a turn: shard 0 of LENGTH `len` at page 6, `got` bytes of it received; frames of it. -/
def receiving (st : TurnState) (len got : Nat) : State := State.setHbm { inTurn st 1 with
  dies := [(0, { image := some { learnImage with coord := linkImage.coord, ports := linkImage.ports } })]
  ports := [(0, upPort), (1, upPort)], dist := [(0, 1)] } 0x9000 (leBytes 8 (0x6000 * 2 ^ 22) ++ leBytes 8 (len * 2 ^ 32 + got))
def shardFrame (tag off n : Nat) (last : Bool) : Frame :=
  { longFrame 1 n with vc := 1, w1 := packWord [(tag, 40), (1, 24)], w2 := packWord [(off, 32)], last := last }
theorem recv_page : PageGood (receiving .press 480 0) 0 6 := by unfold PageGood; decide +kernel
theorem wit_ShardFrames : (receiving .press 480 0).accepts 0 hdr0 ∧ (carries ((receiving .press 480 0).role (0 : PortId).val) 1 = true ∧
    (receiving .press 480 0).tagFails (shardFrame 1 0 480 true) = false ∧ (receiving .press 480 0).power.hbmOff = false ∧
    fld (shardFrame 1 0 480 true).w1 23 2 < (receiving .press 480 0).shardCount ∧
    fld (shardFrame 1 0 480 true).w1 63 40 = (receiving .press 480 0).turnTag ∧
    (receiving .press 480 0).keeps (fld (shardFrame 1 0 480 true).w1 39 32) = true ∧ (receiving .press 480 0).img.turnState = .press ∧
    (receiving .press 480 0).shardState 0 = 0 ∧ 0 = fld (shardFrame 1 0 480 true).w2 63 32 ∧
    0x6000 = fld ((receiving .press 480 0).targetWord 0 0) 63 22 ∧ 480 = fld ((receiving .press 480 0).targetWord 0 1) 63 32 ∧
    0 + (shardFrame 1 0 480 true).payload.length ≤ 480 ∧
    0x6000 + 0 + (shardFrame 1 0 480 true).payload.length ≤ (receiving .press 480 0).targetAddr 0 ∧
    (receiving .press 480 0).mapAt 0 < (receiving .press 480 0).targetAddr 0 ∧
    0x6000 + 0 + (shardFrame 1 0 480 true).payload.length ≤ (receiving .press 480 0).mapAt 0 ∧ (shardFrame 1 0 480 true).vc = 1) ∧
    RangeGood (receiving .press 480 0) (shardFrame 1 0 480 true).tenant.toNat ((0x6000 + 0 : Nat) : Int) (shardFrame 1 0 480 true).payload.length := by
  refine ⟨by unfold State.accepts; decide +kernel, by decide +kernel, ?_⟩
  rw [show (shardFrame 1 0 480 true).payload.length = 480 from by decide +kernel]
  exact range_in_page _ _ 6 _ _ (by omega) (by omega) recv_page
/-- A port at its limit that still held the shard of this turn. -/
def losing : State := (receiving .await 480 0).setPort 0 { upPort with
  replayLimit := 8, unacked := [{ hdr := hdr0, sends := 9, frame := shardFrame 1 0 480 true }] }
theorem wit_Ports_lost : (losing.port 0).state = .up ∧ (losing.port 0).atLimit = true ∧ losing.img.turnState = .await ∧
    losing.power.hbmOff = false ∧ shardFrame 1 0 480 true ∈ (losing.port 0).unacked.map Sent.frame ++ (losing.port 0).waiting.map Prod.snd ∧
    (shardFrame 1 0 480 true).typ = 1 ∧ fld (shardFrame 1 0 480 true).w1 63 40 = losing.turnTag ∧
    0 = fld (shardFrame 1 0 480 true).w1 23 2 ∧ 0 < losing.shardCount ∧ losing.shardState 0 = 0 := by decide +kernel
/-- The next bytes of a longer shard; frames in a drain, of an earlier turn, of a tenant without that epoch. -/
theorem wit_ShardFrames_others : (480 = fld (shardFrame 1 480 1 false).w2 63 32 ∧ 480 ≠ 0 ∧
      480 = fld ((receiving .press 960 480).targetWord 0 1) 31 0 ∧ 480 + 1 ≤ fld ((receiving .press 960 480).targetWord 0 1) 63 32) ∧
    (receiving .drain 480 0).accepts 0 hdr0 ∧ (receiving .drain 480 0).img.turnState = .drain ∧
    (receiving .await 480 0).img.turnState = .await ∧ fld (shardFrame 0 0 0 true).w1 63 40 ≠ (receiving .await 480 0).turnTag ∧
    { liveWith { linkImage with policy := 0x40 } with ports := [(0, upPort), (1, upPort)] }.accepts 0 hdr0 ∧
    { liveWith { linkImage with policy := 0x40 } with ports := [(0, upPort), (1, upPort)] }.tagFails { longFrame 1 0 with tenant := 1 } = true := by
  refine ⟨by decide +kernel, by unfold State.accepts; decide +kernel, rfl, rfl, by decide +kernel, by unfold State.accepts; decide +kernel, by decide +kernel⟩

def jobTo (x b : Nat) : Frame := { longFrame 3 0 with vc := 2, w1 := packWord [(b, 28)], w2 := packWord [(x, 27)] }
theorem wit_JobAndControlFrames : (portsState 2).accepts 1 hdr0 ∧ carries ((portsState 2).role (1 : PortId).val) 3 = true ∧
    (portsState 2).tagFails (jobTo 1 0) = false ∧ (portsState 2).roleChanging (1 : PortId).val = false ∧
    vcFits (jobTo 1 0) = true ∧ vcFits (jobTo 0 63) = true ∧ (portsState 2).crosses ((1 : PortId).val / 2) (0 / 2) = true ∧
    (routeRole (portsState 2).coord (fld (jobTo 1 0).w2 31 27, fld (jobTo 1 0).w2 26 22, fld (jobTo 1 0).w2 21 17) = some 1 ∧
      (portsState 2).portOfRole 1 = some 0 ∧ ((portsState 2).port 0).state = .up ∧ (portsState 2).pass 0 = true) ∧
    (routeRole (portsState 2).coord (fld (jobTo 0 63).w2 31 27, fld (jobTo 0 63).w2 26 22, fld (jobTo 0 63).w2 21 17) = none ∧
      ((portsState 2).bucket (bucketKey (fld (jobTo 0 63).w1 63 52) (fld (jobTo 0 63).w1 51 28))).entries = [] ∧
      (portsState 2).frameEarly (jobTo 0 63) = true ∧ (portsState 2).frameEarly (jobTo 0 64) = false) ∧
    (portsState 7).accepts 1 hdr0 ∧ (portsState 7).role (1 : PortId).val = 7 ∧ (portsState 9).accepts 1 hdr0 ∧
    (portsState 9).role (1 : PortId).val = 9 := by
  refine ⟨by unfold State.accepts; decide +kernel, by decide +kernel, by decide +kernel, by decide +kernel, by decide +kernel, by decide +kernel, by decide +kernel, by decide +kernel, by decide +kernel,
    by unfold State.accepts; decide +kernel, by decide +kernel, by unfold State.accepts; decide +kernel, by decide +kernel⟩

/-! ### Commits and the pair -/

/-- A commit entry of a KIND with TAG 0, and a state in which it is started, KIND `k` active. -/
def commitOf (kind replay : Nat) : Desc := body 5 (packWord [(kind, 62)]) 0 0 (packWord [(replay, 0)]) 0 0
def commitEntryOf (kind replay : Nat) : Entry := { seq := 1, desc := commitOf kind replay, stat := .started }
def committing (k : BitVec 2) (kind replay : Nat) : State :=
  State.running { live with img := { live.img with structKind := k } } (commitOf kind replay)
theorem wit_Commits : groupOf (committing 1 1 0) (qnum 0 0) = 0 ∧ Alone (committing 1 1 0) (qnum 0 0) ∧ (committing 1 1 0).power.hbmOff = false ∧
    ((committing 1 1 0).queue (qnum 0 0)).entry (1#48).toNat = some (commitEntryOf 1 0) ∧
    ((committing 1 1 0).queue (qnum 0 0)).commitEntry = some (commitEntryOf 1 0) ∧
    ((committing 1 1 0).queue (qnum 0 0)).entries = commitEntryOf 1 0 :: [] ∧
    (commitEntryOf 1 0).seq = ((committing 1 1 0).queue (qnum 0 0)).done + 1 ∧
    ((committing 1 1 0).queue (qnum 0 0)).resetWaiting = false ∧ ((committing 1 1 0).queue (qnum 0 0)).disableWaiting = false ∧
    ((committing 1 1 0).queue (qnum 0 0)).ledgerCursor ((committing 1 1 0).group (gkey 0 0)).num ≠ (commitEntryOf 1 0).seq ∧
    (commitOf 0 0).op = 0 ∧ (commitOf 3 0).op = 3 ∧ (commitOf 1 0).op = 1 ∧ (commitOf 2 0).op = 2 ∧ (commitOf 2 0).replay = false ∧
    (commitOf 2 1).replay = true ∧ ((committing 1 1 0).group (gkey 0 0)).prep = none := by
  exact ⟨by decide +kernel, by unfold Alone; decide +kernel, by decide +kernel⟩
def preparedCommit : State := ((committing 1 0 0).setQueue 0 { busyQueue (commitOf 0 0) with cur1 := 1, tag1 := some 1 }).setGroup (gkey 0 0)
  { prep := some { num := 1, kind := 0, tag := 0, banks := 0, dataPos := 0, replay := false, restoring := false } }
/-- One that fails while a later entry has started. -/
def failingCommit : State := (committing 1 2 0).modQueue 0 (fun q => { q with
  accepted := 2, ledAcc := 2, entries := [commitEntryOf 2 0, { commitEntryOf 2 0 with seq := 2, stat := .fetched }] })
theorem wit_Commits_later : ∀ y ∈ [{ commitEntryOf 2 0 with seq := 2, stat := .fetched }],
    (commitEntryOf 2 0).seq < y.seq ∧ (y.stat = .fetched ∨ y.stat = .started) := by decide +kernel
theorem wit_Commits_fails : failingCommit.commitCheck 0 = some Status.illegalInState ∧ (failingCommit.group (gkey 0 0)).prep = none ∧
    (failingCommit.queue (qnum 0 0)).commitEntry = some (commitEntryOf 2 0) := by decide +kernel
theorem wit_Commits_checks : ((committing 1 0 0).commitCheck 0 = none ∧ (committing 1 1 0).commitCheck 0 = none ∧
    (committing 2 2 0).commitCheck 0 = none ∧ (committing 2 2 1).commitCheck 0 = none ∧
    (committing 1 2 0).commitCheck 0 = some Status.illegalInState ∧ (committing 1 3 0).commitCheck 0 = some Status.descFieldRange) ∧
    (∃ p, (preparedCommit.group (gkey 0 0)).prep = some p ∧ (preparedCommit.queue (qnum 0 0)).ledgerCursor p.num = (commitEntryOf 0 0).seq) ∧
    ∃ h : Halves Ctx, SMap.wf (halves0 ({} : Ctx)) { committing 1 1 0 with ctxs := [(9, h)] }.ctxs = true ∧
      (∃ y, h.pend = some y) ∧ h.group = 0 :=
  ⟨by decide +kernel, ⟨{ num := 1, kind := 0, tag := 0, banks := 0, dataPos := 0, replay := false, restoring := false }, by decide +kernel, by decide +kernel⟩,
    ⟨{ com := {}, pend := some { state := 1, len := 3 }, group := 0 }, by decide +kernel, ⟨_, rfl⟩, rfl⟩⟩

/-- Queue 5 of die 0 works jointly with the partner's, on a side. -/
def paired (side : Nat) : State := (liveWith (image 0 0 (packWord [(side, 33)]) [])).setQueue 5 { enable := true, paired := true }
theorem wit_PairEvents : live.jointQueues = [] ∧ (paired 0).jointQueues ≠ [] ∧ (paired 0).coord.side = false ∧
    (paired 0).soloShown = false ∧ (paired 1).jointQueues ≠ [] ∧ (paired 1).coord.side = true ∧ (paired 1).pair.halted = false ∧
    ((paired 1).queue 5).halted = false ∧ (paired 0).power.ready = true ∧ (∃ Q ∈ (paired 0).jointQueues, (paired 0).boundToPart (.die 0) Q = true) ∧
    ∀ R ∈ SMap.keys (paired 1).queues, ((paired 1).queue R).ckptEntry = none := by decide +kernel

/-! ### Serving steps -/

/-- Context 0 is active with 8 positions in pool 0, whose one block is page 6; its chain table is in page 5. -/
def ctx0 (st : BitVec 2) (len wr : Nat) : Ctx :=
  { state := st, chainAddr := 0x5000, maxLen := 16, len := len, wrEnd := wr, adapter := some (1, 1) }
def pool0 : Pool := { base := 6, blocks := 1, valid := true, tpb := 8, layers := 1, tokenBytes := 64 }
def gen1 : Gen := { num := 1, parts := [(0x7000, 1)] }
def servingOn (l : List Byte) (x : Desc) (c : Ctx) : State := State.setHbm (State.running { live with
  tags := [(5, { assigned := true }), (6, { assigned := true }), (7, { assigned := true }), (8, { assigned := true })]
  ctxs := [(0, { com := c, pend := none, group := 0 })], pools := [(0, pool0)]
  adapters := [(1, { com := { tenant := some 0, cur := some gen1, lastNum := 1 }, pend := none, group := 0 })]
  pfxs := [(3, { com := { state := 1, handle := 7, len := 8, addr := 0x7000 }, pend := none, group := 0 })] } x)
  0x8000 l
def serving (x : Desc) (c : Ctx) : State := servingOn (leBytes 8 (8 * 2 ^ 16)) x c
/-- OP `op` on one list entry in page 8, or on the record there. -/
def srvList (op : Nat) : Desc := body 6 (packWord [(op, 60), (1, 35)]) (packWord [(0x8040, 22)]) 0 0 0 0
def srvRows (op : Nat) : Desc := body 6 (packWord [(op, 60), (1, 35), (8, 21)]) (packWord [(0x8000, 22)]) (packWord [(1, 22)]) 0 0 0
/-- The descriptor in the queue works for tenant 0 in group 0. -/
def me : Who := { d := 0, t := 0, g := 0, e := (0, 1) }
theorem srv_page (l : List Byte) (x : Desc) (c : Ctx) (p : Nat) (h : p = 5 ∨ p = 6 ∨ p = 7 ∨ p = 8) : PageGood (servingOn l x c) 0 p := by
  have hs : ∀ q, State.sealedPage (servingOn l x c) q = State.sealedPage { live with tags := (servingOn l x c).tags } q := fun _ => rfl
  have ht : (servingOn l x c).tags = [(5, { assigned := true }), (6, { assigned := true }), (7, { assigned := true }), (8, { assigned := true })] := rfl
  refine ⟨?_, ?_, ?_, rfl, ?_, ?_, rfl, rfl, by rw [hs, ht]; rcases h with rfl | rfl | rfl | rfl <;> decide +kernel⟩ <;>
    rcases h with rfl | rfl | rfl | rfl <;> rfl
theorem wit_ServingRecords_list : Started (serving (srvList 1) (ctx0 1 0 8)) 0 0 1 (srvList 1) ∧ (srvList 1).cls = 6 ∧
    (serving (srvList 1) (ctx0 1 0 8)).whoOf (qnum 0 0) (srvList 1) = me ∧
    ([{ ctx := 0, pos := 0, ntok := 0, vrow := 0, offset := 0, bytes := 0, newLen := 0, rsv := false }].map BatchEntry.ctx).Nodup ∧
    (∀ op st, (op, st) ∈ [(1, 1#2), (2, 1#2), (3, 2#2), (6, 1#2)] → (srvOf (srvList op)).op = op ∧
      BatchReady (serving (srvList op) (ctx0 st 0 8)) 0 0 me (srvOf (srvList op))
        [{ ctx := 0, pos := 0, ntok := 0, vrow := 0, offset := 0, bytes := 0, newLen := 0, rsv := false }]) := by
  refine ⟨⟨rfl, { seq := 1, desc := srvList 1, stat := .started }, by decide +kernel⟩, by decide +kernel, by decide +kernel, by decide, fun op st h => ?_⟩
  simp only [List.mem_cons, Prod.mk.injEq, List.not_mem_nil, or_false] at h
  rcases h with ⟨rfl, rfl⟩ | ⟨rfl, rfl⟩ | ⟨rfl, rfl⟩ | ⟨rfl, rfl⟩ <;>
    exact ⟨by decide +kernel, by decide +kernel, ⟨by decide +kernel,
      range_in_page _ _ 8 _ _ (by decide +kernel) (by decide +kernel) (srv_page _ _ _ 8 (by decide)), by decide +kernel⟩,
      by decide +kernel, rfl, by decide +kernel⟩
def openIt (pfx : Nat) : Desc :=
  body 6 (packWord [(pfx, 9)]) (packWord [(0x5000, 22), (8, 0)]) (packWord [(1, 9)]) (BitVec.ofNat 64 (7 * pfx)) 0 0
theorem wit_ServingRecords_open : (srvOf (openIt 0)).op = 0 ∧ (srvOf (openIt 0)).bad 0 = false ∧ (srvOf (openIt 1)).bad 0 = false ∧
    (((serving (openIt 0) (ctx0 1 8 8)).ctx (dkey 0 ctxPer (srvOf (openIt 0)).ctx)).seen 0).state = 0 ∧
    ((serving (openIt 0) (ctx0 1 8 8)).ctx (dkey 0 ctxPer (srvOf (openIt 0)).ctx)).foreign 0 = false ∧
    ((serving (openIt 0) (ctx0 1 8 8)).kvPool 0 (srvOf (openIt 0)).pool).usable 0 0 = true ∧
    (serving (openIt 0) (ctx0 1 8 8)).tableOut me (srvOf (openIt 0)) = false ∧
    (serving (openIt 0) (ctx0 1 8 8)).pin me (srvOf (openIt 0)) = some none ∧
    (serving (openIt 0) (ctx0 1 8 8)).openPrefix me (srvOf (openIt 0)) none = some none ∧
    (serving (openIt 1) (ctx0 1 8 8)).openPrefix me (srvOf (openIt 1)) none = some (some 3) ∧
    (srvOf (body 6 (packWord [(1, 35)]) 0 0 0 0 0)).bad 0 = true ∧ State.reset.img.structKind ≠ 1 := by decide +kernel
theorem wit_ServingRecords_chains : RangeGood (serving (openIt 1) (ctx0 1 8 8)) 0 ((0x7000 : Nat) : Int) 4 ∧
    RangeGood (serving (openIt 1) (ctx0 1 8 8)) 0 ((0x5000 : Nat) : Int) 4 :=
  ⟨range_in_page _ _ 7 _ _ (by decide) (by decide) (srv_page _ _ _ 7 (by decide)),
    range_in_page _ _ 5 _ _ (by decide) (by decide) (srv_page _ _ _ 5 (by decide))⟩
def publishIt : Desc := body 6 (packWord [(7, 60)]) (packWord [(0x7000, 22), (8, 0)]) 0 9 0 0
def releaseIt : Desc := body 6 (packWord [(8, 60)]) 0 0 7 0 0
theorem wit_ServingRecords_prefix : (srvOf publishIt).op = 7 ∧ (srvOf publishIt).bad 0 = false ∧
    ((serving publishIt (ctx0 1 8 8)).ctxSeen me (srvOf publishIt).ctx).state = 1 ∧
    (serving publishIt (ctx0 1 8 8)).ctxRefused me (srvOf publishIt).ctx false = false ∧ 1 = (srvOf publishIt).len / max 1 pool0.tpb.toNat ∧
    1 * pool0.tpb.toNat ≤ (serving publishIt (ctx0 1 8 8)).lenShared me (srvOf publishIt).ctx ∧
    (serving publishIt (ctx0 1 8 8)).tableOut me (srvOf publishIt) = false ∧
    (serving publishIt (ctx0 1 8 8)).handleTaken me (srvOf publishIt).handle = false ∧
    (serving publishIt (ctx0 1 8 8)).freePrefix me = some 0 ∧
    (srvOf releaseIt).op = 8 ∧ (srvOf releaseIt).bad 0 = false ∧
    pfxIds.find? (fun i => ((serving releaseIt (ctx0 1 8 8)).pfxSeen me i).state == 1 &&
      ((serving releaseIt (ctx0 1 8 8)).pfxSeen me i).tenant == 0 &&
      ((serving releaseIt (ctx0 1 8 8)).pfxSeen me i).handle == (srvOf releaseIt).handle) = some 3 ∧
    ((serving releaseIt (ctx0 1 8 8)).pfx (dkey 0 pfxPer 3)).foreign 0 = false := by decide +kernel
def adapterOp (op : Nat) : Desc := body 6 (packWord [(op, 60), (1, 11)]) (packWord [(if op = 9 then 0x8040 else 0, 22)]) 0 0 0 0
theorem wit_ServingRecords_adapter : (srvOf (adapterOp 9)).op = 9 ∧ (srvOf (adapterOp 9)).bad 0 = false ∧
    (serving (adapterOp 9) (ctx0 1 8 8)).slotRefused me (srvOf (adapterOp 9)).slot = false ∧
    (((serving (adapterOp 9) (ctx0 1 8 8)).adapter 1).seen 0).old = none ∧
    installBad ((serving (adapterOp 9) (ctx0 1 8 8)).hbmBytes (srvOf (adapterOp 9)).addr 64) = false ∧ (srvOf (adapterOp 10)).op = 10 ∧
    (srvOf (adapterOp 10)).bad 0 = false ∧ (((serving (adapterOp 10) (ctx0 1 8 8)).adapter 1).seen 0).cur.isSome = true ∧
    ({ serving (adapterOp 10) (ctx0 1 8 8) with img := {} } : State).img.structKind ≠ 1 ∧
    (serving (adapterOp 10) (ctx0 1 8 8)).tableOut me (srvOf (adapterOp 10)) = false := by decide +kernel
/-- Eight positions from 0 on, and 64 bytes of the adapter. -/
def rowsEntry : BatchEntry := { ctx := 0, pos := 0, ntok := 8, vrow := 0, offset := 0, bytes := 0, newLen := 0, rsv := false }
def fetchEntry : BatchEntry := { ctx := 0, pos := 0, ntok := 0, vrow := 0, offset := 0, bytes := 64, newLen := 64, rsv := false }
def fetchIt : Desc := body 6 (packWord [(11, 60), (1, 35)]) (packWord [(0x8000, 22)]) (packWord [(1, 22)]) 0 0 0
def fetchState : State := servingOn (leBytes 8 0 ++ leBytes 8 64) fetchIt (ctx0 1 8 8)
theorem rows_chain (op len : Nat) (hop : op = 4 ∨ op = 5) (hl : len = 8 ∨ len = 0) :
    ChainGood (serving (srvRows op) (ctx0 1 len 8)) 0 0 (srvOf (srvRows op)) (ctx0 1 len 8) pool0 rowsEntry [0] := by
  refine ⟨by rcases hop with rfl | rfl <;> rcases hl with rfl | rfl <;> decide +kernel, by decide, by decide, ?_, fun i hi => ?_⟩
  · have h : chainIndexes pool0 rowsEntry = [0] := by decide +kernel
    rw [h]; intro j hj; simp only [List.mem_cons, List.not_mem_nil, or_false] at hj; subst hj
    exact range_in_page _ _ 5 _ _ (by simp only [ctx0]; decide) (by simp only [ctx0]; decide) (srv_page _ _ _ 5 (by decide))
  · have h : ∀ i, i < 8 → rowAt (srvOf (srvRows op)) pool0 rowsEntry [0] (rowsEntry.pos + i) = 0x6000 + i * 64 := by
      rcases hop with rfl | rfl <;> decide +kernel
    have h2 : pool0.tokenBytes.toNat = 64 := by decide
    have hi' : i < 8 := hi
    rw [h i hi, h2]
    exact range_in_page _ _ 6 _ _ (by omega) (by omega) (srv_page _ _ _ 6 (by decide))
theorem wit_ServingRows : BatchReady (serving (srvRows 4) (ctx0 1 8 8)) 0 0 me (srvOf (srvRows 4)) [rowsEntry] ∧
    BatchReady (serving (srvRows 5) (ctx0 1 0 8)) 0 0 me (srvOf (srvRows 5)) [rowsEntry] ∧
    RowsOpen (serving (srvRows 4) (ctx0 1 8 8)) 0 0 ((srvOf (srvRows 4)).span 64 rowsEntry) ∧
    RowsOpen (serving (srvRows 5) (ctx0 1 0 8)) 0 0 ((srvOf (srvRows 5)).span 64 rowsEntry) ∧
    rowsEntry.ntok ≤ (srvOf (srvRows 4)).budget ∧ rowsEntry.pos + rowsEntry.ntok ≤ 2097152 ∧
    (srvOf (srvRows 4)).op = 4 ∧ (srvOf (srvRows 5)).op = 5 ∧ (srvOf (srvRows 5)).layer = 0 :=
  ⟨⟨by decide +kernel, ⟨by decide +kernel, range_in_page _ _ 8 _ _ (by decide +kernel) (by decide +kernel) (srv_page _ _ _ 8 (by decide)),
      by decide +kernel⟩, by decide +kernel, rfl, by decide +kernel⟩,
    ⟨by decide +kernel, ⟨by decide +kernel, range_in_page _ _ 8 _ _ (by decide +kernel) (by decide +kernel) (srv_page _ _ _ 8 (by decide)),
      by decide +kernel⟩, by decide +kernel, rfl, by decide +kernel⟩,
    by unfold RowsOpen VatSound; decide +kernel⟩
theorem wit_ServingRows_fetch : (srvOf fetchIt).op = 11 ∧ BatchReady fetchState 0 0 me (srvOf fetchIt) [fetchEntry] ∧
    fetchState.pinned (ctx0 1 8 8) = some gen1 ∧ 0x7000 = (gen1.part (0 : DieId).val).1 + fetchEntry.offset ∧
    RangeGood fetchState 0 ((0x7000 : Nat) : Int) fetchEntry.bytes ∧ RowsOpen fetchState 0 0 ((srvOf fetchIt).span 64 fetchEntry) :=
  ⟨by decide +kernel, ⟨by decide +kernel, ⟨by decide +kernel,
      range_in_page _ _ 8 _ _ (by decide +kernel) (by decide +kernel) (srv_page _ _ _ 8 (by decide)), by decide +kernel⟩,
      by decide +kernel, rfl, by decide +kernel⟩, by decide +kernel, by decide,
    range_in_page _ _ 7 _ _ (by decide) (by decide) (srv_page _ _ _ 7 (by decide)),
    by unfold RowsOpen VatSound; decide +kernel⟩

/-! ### Streams, collectives, checkpoints -/

/-- An operation on slot 0: SET_KEY, SET_DATA (8 sequences a step, 2 a microbatch), BEGIN_MB, SET_LAYER, SET_COUNTER. -/
def streamDescOf (op start : Nat) : Desc :=
  body 9 (packWord [(op, 60), (if op = 1 then 0 else 1, 37)]) (if op = 1 then packWord [(8, 32), (2, 0)] else 0)
    (if op = 2 then packWord [(start, 42), (1, 20)] else 0) 0 0 0
def streaming (op start sps : Nat) : State := { State.running live (streamDescOf op start) with
  dies := [(0, { image := (live.die 0).image, learn := { com := { sps := BitVec.ofNat 32 sps, spm := 2 }, pend := none, group := 0 } })]
  streams := [(0, { com := { keyed := true }, pend := none, group := 0 })] }
theorem wit_StreamControl : Started (streaming 2 0 8) 0 0 1 (streamDescOf 2 0) ∧ (streamDescOf 2 0).cls = 9 ∧
    (∀ op, op < 5 → (streamOf (streamDescOf op 0)).op = op ∧ (streamOf (streamDescOf op 0)).bad = false ∧
      (streaming op 0 8).streamIllegal 0 0 0 (streamOf (streamDescOf op 0)) = false) ∧
    (streamOf (streamDescOf 5 0)).bad = true ∧
    (2097152 < (streamOf { streamDescOf 2 2097151 with w20 := packWord [(2097151, 42), (2, 20)] }).seqStart +
        (streamOf { streamDescOf 2 2097151 with w20 := packWord [(2097151, 42), (2, 20)] }).seqLen ∧
      (streamOf { streamDescOf 2 2097151 with w20 := packWord [(2097151, 42), (2, 20)] }).bad = false) ∧
    (streamOf (streamDescOf 2 2097151)).seqStart + (streamOf (streamDescOf 2 2097151)).seqLen ≤ 2097152 ∧
    (streaming 2 0 0).streamIllegal 0 0 0 (streamOf (streamDescOf 2 0)) = true :=
  ⟨⟨by decide, { seq := 1, desc := streamDescOf 2 0, stat := .started }, by decide +kernel⟩, by decide +kernel⟩

/-- OP `op` of job 0, bucket `b`, on 128 elements of dies `mask`: SRC at 0, DST at 1024, bfloat16 on the wire, staging in curds 2
and 3; curds 0 and 1 are the group's, 2 and 3 a link's. -/
def collective (op mask b : Nat) : Desc :=
  body 7 (packWord [(op, 61), (mask, 53), (1, 52), (1, 51), (2, 8)]) (packWord [(b, 40), (128, 0)]) 0
    (if op = 3 then 0 else 1024) (packWord [(2 * 65536, 38), (2, 28)]) 0
def collImage : Image := { image 0 0 0 [] with
  curds := [packWord [(0, 52), (2, 42), (1, 40), (1, 32), (1, 31)], packWord [(2, 52), (2, 42), (3, 40), (1, 31)]] }
def collecting (op mask b : Nat) : State := State.running (liveWith collImage) (collective op mask b)
theorem wit_Collectives : Started (collecting 1 1 0) 0 0 1 (collective 1 1 0) ∧
    (∀ op, op < 4 → (collective op 1 0).cls = 7 ∧ (collective op 1 0).op = op ∧
      (collecting op 1 0).posted (bucketKey 0 0) (qnum 0 0) (1#48).toNat = false ∧
      collBad (planOf (collective op 1 0)) (collecting op 1 0).coord 0 (collective op 1 0) = false ∧
      (collecting op 1 0).collIllegal 0 (qnum 0 0) (planOf (collective op 1 0)) = false ∧
      (collecting op 1 0).collCurd 0 (qnum 0 0) (srcSpan (planOf (collective op 1 0)) (collecting op 1 0).coord 0 (collective op 1 0) ++
        dstSpan (planOf (collective op 1 0)) (collecting op 1 0).coord 0 (collective op 1 0)) (stageSpan (collective op 1 0)) = none ∧
      (collecting op 1 0).spanFenced 0 (srcSpan (planOf (collective op 1 0)) (collecting op 1 0).coord 0 (collective op 1 0) ++
        dstSpan (planOf (collective op 1 0)) (collecting op 1 0).coord 0 (collective op 1 0) ++ stageSpan (collective op 1 0)) = false ∧
      (planOf (collective op 1 0)).srcVat = true ∧ (planOf (collective op 1 0)).dstVat = true ∧ (planOf (collective op 1 0)).dies = [0] ∧
      (planOf (collective op 1 0)).stages (collecting op 1 0).coord = [] ∧ (planOf (collective op 1 0)).ring = false ∧
      ((collecting op 1 0).bucket (bucketKey 0 0)).formed = false ∧ ((collecting op 1 0).bucket (bucketKey 0 0)).inbox = [] ∧
      ((collecting op 1 0).bucket (bucketKey 0 0)).ready = false ∧ (collecting op 1 0).crosses 0 0 = true) := by
  refine ⟨started_running _ _ (by decide) (by decide +kernel), ?_⟩
  decide +kernel
theorem wit_Collectives_others : (collective 4 1 0).op = 4 ∧
    collBad (planOf (collective 4 1 0)) (collecting 4 1 0).coord 0 (collective 4 1 0) = true ∧
    (collecting 1 1 (2 ^ 23)).collIllegal 0 (qnum 0 0) (planOf (collective 1 1 (2 ^ 23))) = true ∧
    (64 ≤ bucketAhead (((collecting 1 1 64).job (dkey 0 4096 0)).seen 0).nextBucket.toNat 64 ∧
      (collecting 1 1 64).collIllegal 0 (qnum 0 0) (planOf (collective 1 1 64)) = false) ∧
    bucketAhead (((collecting 1 1 63).job (dkey 0 4096 0)).seen 0).nextBucket.toNat 63 < 64 ∧
    (∃ e, e ∈ (planOf (collective 1 3 0)).dies ∧ e ≠ (0 : DieId).val ∧ (collecting 1 3 0).bucketStarted (bucketKey 0 0) e = false) ∧
    collBad (planOf (collective 1 3 0)) (collecting 1 3 0).coord 0 (collective 1 3 0) = false ∧
    (planOf { collective 1 1 0 with w10 := packWord [(1, 61), (1, 53), (1, 51), (2, 8)] }).srcVat = false ∧
    (0 + (128 : Nat) * 4 ≤ 4096 ∧ PageGood pages 0 5) :=
  ⟨by decide +kernel, by decide +kernel, by decide +kernel, by decide +kernel, by decide +kernel, ⟨1, by decide +kernel⟩,
    by unfold PageGood; decide +kernel⟩
def formedState : State := { collecting 1 1 0 with buckets := [(bucketKey 0 0, { formed := true, entries :=
  [{ die := 0, queue := 0, seq := 1, desc := collective 1 1 0, src := [], formed := some Status.ok }] })] }
theorem wit_Collectives_ends : (collecting 1 1 0).formedEntry (bucketKey 0 0) 0 = none ∧
    (∃ e, formedState.formedEntry (bucketKey 0 0) (0 : DieId).val = some (e, Status.ok)) ∧ live.power.ready = true ∧
    (bitAt (packWord [(1, 12), (7, 13)]) 12 = true ∧ live.jobRuns 0 (fld (packWord [(1, 12), (7, 13)]) 11 0) = false) ∧
    bitAt (packWord [(7, 13)]) 12 = false ∧ (collecting 1 1 0).jobRuns 0 0 = true :=
  ⟨by decide +kernel, ⟨{ die := 0, queue := 0, seq := 1, desc := collective 1 1 0, src := [], formed := some Status.ok }, by decide +kernel⟩,
    by decide, by decide +kernel, by decide +kernel, by decide +kernel⟩

/-- SNAPSHOT of one page tensor, page 6, to slot 0 (pages 8 to 15), its list in page 5, its result in page 7. -/
def ckptBody (op slot flags count list : Nat) : Desc :=
  body 8 (packWord [(op, 61), (slot, 59), (flags, 54), (count, 0)]) (packWord [(list, 22)]) (packWord [(0x7000, 22)]) 0 0 0
def snapIt : Desc := ckptBody 0 0 0 1 0x5000
def ckptAt (q : Queue) (im : Image) (st : BitVec 3) : State := State.setHbm { ({ liveWith im with
    tags := (List.range 11).map (fun i => (5 + i, { assigned := true }))
    ckpts := [(0, { base := 8, pages := 4, state := st })], groups := [(gkey 0 0, { kind := 2 })] } : State).setQueue 0 q with
  img := { live.img with structKind := 2 } } 0x5000 (leBytes 8 (0x6000 * 2 ^ 22 + 255 * 2 ^ 14) ++ leBytes 8 4096)
def ckptOn (x : Desc) (im : Image) (st : BitVec 3) : State := ckptAt (busyQueue x) im st
/-- The snapshot is entry 2: entry 1 was the group's last commit. -/
def snapEntry : Entry := { seq := 2, desc := snapIt, stat := .started }
def snapping : State := ckptAt { enable := true, accepted := 2, ledAcc := 2, committed := 1, done := 1, entries := [snapEntry] } (image 0 0 0 []) 0
theorem ckpt_page (x : Queue) (st : BitVec 3) (p : Nat) (h : 5 ≤ p ∧ p ≤ 10) : PageGood (ckptAt x (image 0 0 0 []) st) 0 p := by
  have hs : ∀ q, State.sealedPage (ckptAt x (image 0 0 0 []) st) q =
    State.sealedPage { live with tags := (List.range 11).map (fun i => (5 + i, { assigned := true })) } q := fun _ => rfl
  have hp : p = 5 ∨ p = 6 ∨ p = 7 ∨ p = 8 ∨ p = 9 ∨ p = 10 := by omega
  refine ⟨?_, ?_, ?_, rfl, ?_, ?_, rfl, rfl, by rw [hs]; rcases hp with rfl | rfl | rfl | rfl | rfl | rfl <;> decide +kernel⟩ <;>
    rcases hp with rfl | rfl | rfl | rfl | rfl | rfl <;> rfl
def tensor6 : ListEnt := { addr := 0x6000, bank := 255, bytes := 4096, rsv := false }
theorem wit_Checkpoints_entry : groupOf snapping (qnum 0 0) = 0 ∧ members snapping 0 = [qnum 0 0] ∧ snapping.power.hbmOff = false ∧
    (snapping.queue (qnum 0 0)).entry (2#48).toNat = some snapEntry ∧
      (snapping.queue (qnum 0 0)).ckptEntry = some snapEntry ∧ (snapping.queue (qnum 0 0)).entries = snapEntry :: [] ∧
      snapEntry.seq = (snapping.queue (qnum 0 0)).done + 1 ∧ (ckptOf snapEntry.desc).bad 0 = false ∧ snapping.ownerOf (qnum 0 0) = 0 := by
  decide +kernel
/-- A later entry of the queue has been fetched. -/
theorem wit_Checkpoints_later : ∀ y ∈ [{ snapEntry with seq := 3, stat := .fetched }],
    snapEntry.seq < y.seq ∧ (y.stat = .fetched ∨ y.stat = .started) := by decide +kernel
/-- The Hold runs on die 0, and on die 1 too where `both`. -/
def holding (both : Bool) : State := (snapping.modDie 0 (fun x => { x with holds := [{ group := 0, slot := 0, start := 0, sealed := false }] })).modDie 1
  (fun x => { x with holds := if both then [{ group := 0, slot := 0, start := 0, sealed := false }] else [] })
theorem wit_Checkpoints_hold : (holding false).unsealed 0 (0 : DieId).val = true ∧ (∀ i : DieId, i ≠ 0 → (holding false).unsealed 0 i.val = false) ∧
    (holding true).unsealed 0 (0 : DieId).val = true ∧ (1 : DieId) ≠ 0 ∧ (holding true).unsealed 0 (1 : DieId).val = true ∧
    snapping.unsealed 0 (0 : DieId).val = false := by decide +kernel
theorem wit_Checkpoints_snapshot : snapping.joint (qnum 0 0) = false ∧ (ckptOf snapIt).op = 0 ∧
    [tensor6] = (List.range (ckptOf snapIt).count).map (listEnt (snapping.hbmBytes (ckptOf snapIt).list (16 * (ckptOf snapIt).count))) ∧
    snapping.img.structKind = 2 ∧
    (∀ i : DieId, snapping.holdOf 0 i.val = none) ∧ 1 < snapEntry.seq ∧ (∀ y ∈ [tensor6], snapping.listEntBad 0 false y = false) ∧
    listClash [tensor6] = false ∧ [tensor6].foldl (fun a y => a + y.bytes) 0 ≤ 160 * 2 ^ 30 ∧
    snapping.snapPages 0 0 0 [tensor6] ≤ (snapping.ckpt (slotKey 0 0)).pages.toNat ∧ (snapping.group (gkey 0 0)).kind = 2 ∧
    (snapping.group (gkey 0 0)).replay = false ∧ (snapping.ckpt (slotKey 0 0)).state = 0 ∧ (snapping.queue (qnum 0 0)).committed + 1 = snapEntry.seq ∧
    snapping.slotAddr 0 0 = 0x8000 ∧ snapping.snapPages 0 0 0 [tensor6] = 3 := by decide +kernel
theorem wit_Checkpoints_snapshot_pages : RangeGood snapping 0 ((0x5000 : Nat) : Int) 16 ∧
    (∀ y ∈ [tensor6], RangeGood snapping 0 (y.addr : Nat) y.bytes) ∧
    RangeGood snapping 0 ((0x8000 : Nat) : Int) (4096 * 3) ∧ RangeGood snapping 0 ((0x7000 : Nat) : Int) 64 := by
  refine ⟨range_in_page _ _ 5 _ _ (by decide) (by decide) (ckpt_page _ _ 5 (by decide)), ?_, ?_,
    range_in_page _ _ 7 _ _ (by decide) (by decide) (ckpt_page _ _ 7 (by decide))⟩
  · intro y hy; simp only [List.mem_cons, List.not_mem_nil, or_false] at hy; subst hy
    exact range_in_page _ _ 6 _ _ (by decide) (by decide) (ckpt_page _ _ 6 (by decide))
  · intro p h1 h2
    exact ckpt_page _ _ p (by omega)

/-- RESTORE of slot 0: a snapshot without tensors, streams or jobs, of the first step, and its checksum. -/
def restoreIt : Desc := ckptBody 1 0 0 0 0
def restoring : State := ((ckptOn restoreIt (image 0 0 0 []) 2).setHbm 0x8000 (leBytes 8 (0x50414E53 + 2 ^ 32))).setHbm (0x8000 + 4088)
  (leBytes 8 11524056313578476243)
def restoreParty : Party := { g := 0, t := 0, paired := false, joint := false, dies := [(0, ckptOf restoreIt)] }
/-- The header of the slot, and its checksum in pieces. -/
def hdrFirst : List Byte := leBytes 8 (0x50414E53 + 2 ^ 32)
def hdrBytes : List Byte := hdrFirst ++ (List.replicate 4080 0 ++ leBytes 8 11524056313578476243)
/-- The checksum with each step's value computed before the next. -/
def force {α : Type} (n : Nat) (f : Nat → α) : α := Nat.casesOn (motive := fun _ => α) n (f 0) (fun m => f (m + 1))
theorem force_eq {α : Type} (n : Nat) (f : Nat → α) : force n f = f n := by cases n <;> rfl
def crcStep (c : Nat) : Nat := (c <<< 1 % 2 ^ 64) ^^^ (0x42F0E1EBA9EA3693 * (c >>> 63))
theorem crcStep_eq (c : Word) : crcStep c.toNat = (crcBit c).toNat := by
  have hc := c.isLt
  unfold crcStep crcBit
  by_cases h : c.msb = true
  · have h2 : c.toNat >>> 63 = 1 := by
      have h3 : 2 ^ 63 ≤ c.toNat := by simpa [BitVec.msb_eq_decide] using h
      rw [Nat.shiftRight_eq_div_pow]; omega
    rw [if_pos h, h2]; simp
  · have h2 : c.toNat >>> 63 = 0 := by
      have h3 : ¬ 2 ^ 63 ≤ c.toNat := by simpa [BitVec.msb_eq_decide] using h
      rw [Nat.shiftRight_eq_div_pow]; omega
    rw [if_neg h, h2]; simp
def crcBits : Nat → Nat → Nat
  | 0, c => c
  | k + 1, c => force (crcStep c) (crcBits k)
def crcRun : List Byte → Nat → Nat
  | [], c => c
  | b :: bs, c => force (crcBits 8 (c ^^^ (b.toNat <<< 56 % 2 ^ 64))) (crcRun bs)
theorem crcRun_eq (bs : List Byte) (c : Word) : crcRun bs c.toNat = (bs.foldl crcByte c).toNat := by
  induction bs generalizing c with
  | nil => rfl
  | cons b bs ih =>
    have h : c.toNat ^^^ (b.toNat <<< 56 % 2 ^ 64) = (c ^^^ (BitVec.ofNat 64 b.toNat <<< 56)).toNat := by
      rw [BitVec.toNat_xor, BitVec.toNat_shiftLeft, BitVec.toNat_ofNat,
        Nat.mod_eq_of_lt (Nat.lt_trans b.isLt (by decide : 2 ^ 8 < 2 ^ 64))]
    rw [crcRun, force_eq, List.foldl_cons, ← ih, h]
    simp only [crcBits, force_eq, crcStep_eq, crcByte]
theorem hdr_crc : crc64 (hdrFirst ++ List.replicate 4080 0) = 11524056313578476243 := by
  have h : crcRun (hdrFirst ++ List.replicate 4080 0) 0 = 11524056313578476243 := by decide +kernel
  have h2 := crcRun_eq (hdrFirst ++ List.replicate 4080 0) 0
  exact BitVec.eq_of_toNat_eq (by rw [crc64, ← h2]; exact h)
theorem restoring_hbm : ∀ i, 8 ≤ i → i < 4088 → restoring.hbmByte (0x8000 + i) = 0 := by
  intro i h1 h2
  have hk : SMap.keys restoring.hbm = [20481, 20482, 20484, 20489, 32768, 32769, 32770, 32771, 32772, 36856, 36857, 36858, 36859, 36860, 36861, 36862, 36863] := by decide +kernel
  exact SMap.get_unlisted (by rw [hk]; simp only [List.mem_cons, List.not_mem_nil, or_false]; omega)
theorem bytes_of_parts (rd : Nat → Byte) (a b : List Byte) (n : Nat) (la : a.length = 8) (lb : b.length = 8)
    (h1 : ∀ i, i < 8 → rd i = a.getD i 0) (h2 : ∀ i, 8 ≤ i → i < 8 + n → rd i = 0)
    (h3 : ∀ i, i < 8 → rd (8 + n + i) = b.getD i 0) : (List.range (8 + n + 8)).map rd = a ++ (List.replicate n 0 ++ b) := by
  refine List.ext_getElem (by simp only [List.length_map, List.length_range, List.length_append, List.length_replicate, la, lb]; omega)
    (fun i hi _ => ?_)
  have hi : i < 8 + n + 8 := by simpa only [List.length_map, List.length_range] using hi
  simp only [List.getElem_map, List.getElem_range, List.getElem_append]
  split
  · rename_i h; rw [la] at h; rw [h1 i h, List.getD_eq_getElem?_getD, List.getElem?_eq_getElem (by rw [la]; exact h)]; rfl
  · rename_i h; rw [la] at h
    split
    · rename_i h4; simp only [List.length_replicate, la] at h4
      rw [h2 i (by omega) (by omega), List.getElem_replicate]
    · rename_i h4; simp only [List.length_replicate, la] at h4
      have h5 := h3 (i - (8 + n)) (by omega)
      rw [show 8 + n + (i - (8 + n)) = i by omega] at h5
      rw [h5, List.getD_eq_getElem?_getD, List.getElem?_eq_getElem (by rw [lb]; omega)]
      simp only [List.length_replicate, la, show i - 8 - n = i - (8 + n) by omega]; rfl
theorem getRun_map {α : Type} (dflt : α) (m : SMap α) (i n : Nat) :
    SMap.getRun dflt m i n = (List.range n).map (fun k => SMap.get dflt m (i + k)) := by
  induction n generalizing i with
  | zero => rfl
  | succ n ih =>
    rw [SMap.getRun, ih, List.range_succ_eq_map, List.map_cons, List.map_map]
    exact congrArg (List.cons _) (List.map_congr_left (fun k _ => congrArg (SMap.get dflt m) (by simp only [Nat.succ_eq_add_one]; omega)))
def afterHdr : State := (restoring.reachAll 0 false .read ((pagePieces 0x8000 4096).map (fun x => pageOf x.1))).1
theorem restoring_hdr : restoring.readHbm 0 false 0x8000 4096 = (afterHdr, .ok hdrBytes) := by
  have hr : (restoring.reachAll 0 false .read ((pagePieces 0x8000 4096).map (fun x => pageOf x.1))).2 = none := by decide +kernel
  have hs : afterHdr.hbm = restoring.hbm := by decide +kernel
  have hb : ∀ i, afterHdr.hbmByte i = restoring.hbmByte i := fun i => by simp only [State.hbmByte, hs]
  have hp := bytes_of_parts (fun i => afterHdr.hbmByte (0x8000 + i)) hdrFirst (leBytes 8 11524056313578476243) 4080 (by decide) (by decide)
    (by simp only [hb]; decide +kernel) (fun i h1 h2 => (hb _).trans (restoring_hbm i h1 h2)) (by simp only [hb]; decide +kernel)
  have hl : afterHdr.hbmBytes 0x8000 4096 = hdrBytes := by
    rw [State.hbmBytes, hdrBytes, ← hp, show 8 + 4080 + 8 = 4096 from by decide, getRun_map]; rfl
  rw [State.readHbm]
  simp only [hr]
  exact Prod.ext rfl (congrArg Except.ok hl)
def theSnap : Snap := { die := 0, desc := ckptOf restoreIt, hdr := hdrBytes, sec := [] }
theorem hdr_sound : hdrSound hdrBytes = true := by
  have h1 : hdrBytes.take 4088 = hdrFirst ++ List.replicate 4080 0 := by
    rw [hdrBytes, ← List.append_assoc]
    exact List.take_left' (by simp only [List.length_append, List.length_replicate, show hdrFirst.length = 8 from by decide])
  have h2 : (numAt hdrBytes 0 4 == 0x50414E53 && numAt hdrBytes 4 2 == 1) = true := by decide +kernel
  have h3 : numAt hdrBytes 4088 8 = 11524056313578476243 := by decide +kernel
  rw [hdrSound, h1, hdr_crc, h2, h3]; rfl
theorem restoring_snap : restoring.readSnap restoreParty 0 (ckptOf restoreIt) = ((afterHdr.readHbm 0 false 0x9000 0).1, .ok theSnap) := by
  have h0 : hdrSections hdrBytes = 0 := by decide +kernel
  have h1 : (afterHdr.readHbm 0 false 0x9000 0).2 = .ok [] := rfl
  have h2 : ((restoring.ckpt (slotKey 0 (ckptOf restoreIt).slot)).pages = 0) = False := by decide +kernel
  have h3 : restoring.slotAddr 0 (ckptOf restoreIt).slot = 0x8000 := by decide +kernel
  have h4 : (numAt hdrBytes 6 1 != 0 || decide ((restoring.ckpt (slotKey 0 (ckptOf restoreIt).slot)).pages.toNat < 1 + pagesOf 0)) = false := by
    decide +kernel
  have h5 : ((crc64 []).toNat != numAt hdrBytes 0x58 8) = false := by decide +kernel
  have h6 : theSnap.tensors = [] := by decide +kernel
  unfold theSnap at h6
  rw [Bool.or_eq_false_iff] at h4
  simp only [State.readSnap, h2, h3, if_false, show restoreParty.t = 0 from rfl, restoring_hdr, hdr_sound, h0, h4.1, h4.2, h1, h5, h6,
    Nat.reduceAdd, List.any_nil, Bool.not_true, Bool.or_false, Bool.false_eq_true]
  rfl
theorem wit_Checkpoints_restore : restoring.joint (qnum 0 0) = false ∧ (restoring.queue (qnum 0 0)).paired = false ∧
    (ckptOf restoreIt).op = 1 ∧ (ckptOf restoreIt).bad 0 = false ∧ ∃ sn s0 s1,
      restoring.readSnap restoreParty 0 (ckptOf restoreIt) = (s0, .ok sn) ∧ s0.restoreIllegal restoreParty [sn] [] = false ∧
      (∀ y ∈ sn.streams 0, sn.skewed y.2 = false) ∧
      s0.restoreDie restoreParty ((ckptOf restoreIt).cold || !hdrHistSaved sn.hdr) sn = (s1, none) :=
  ⟨by decide +kernel, by decide +kernel, by decide +kernel, by decide +kernel, _, _, _, restoring_snap, by decide +kernel,
    by decide +kernel, Prod.ext rfl (by decide +kernel)⟩

/-- DRAIN of slot 0 and COMPARE of curd 0 and both banks of West, of a queue that works jointly, and of one that does not. -/
def drainIt : Desc := ckptBody 2 0 0 0 0
def compareIt : Desc := { ckptBody 3 0 0 0 0 with w10 := packWord [(3, 61), (2, 57), (3, 51)], w28 := packWord [(1, 28)] }
def pairOn (x : Desc) : State := { ckptAt { busyQueue x with paired := true } (portsImage 7) 2 with
  ports := [(1, upPort)]
  pair := { start := [(0, 1)], crcs := [(0, some [])] }
  banks := [(bkey 0 .west 0, { held := true }), (bkey 0 .west 1, { held := true })] }
theorem wit_Checkpoints_pair : (ckptOf drainIt).op = 2 ∧ (ckptOf drainIt).bad 0 = false ∧ (pairOn drainIt).joint (qnum 0 0) = true ∧
    SMap.get 0 (pairOn drainIt).pair.start (qnum 0 0) = 1 ∧ (pairOn drainIt).slotState 0 0 = 2 ∧
    ((ckptOn drainIt (image 0 0 0 []) 2).queue (qnum 0 0)).paired = false ∧ (ckptOn drainIt (image 0 0 0 []) 2).slotState 0 0 ≠ 3 ∧
    (ckptOf compareIt).op = 3 ∧ (ckptOf compareIt).scope = 2 ∧ (ckptOf compareIt).bad 0 = false ∧
    SMap.get none (pairOn compareIt).pair.crcs (0 : DieId).val = some [] ∧
    (∀ k ∈ (ckptOf compareIt).bankKeys 0, ((pairOn compareIt).bank k).held = true) ∧
    vatCheck ((pairOn compareIt).groupOwns 0 ((pairOn compareIt).bind (qnum 0 0)).group) noCurds (ckptOf compareIt).span = none ∧
    (pairOn compareIt).fencedAt 0 (ckptOf compareIt).half = false ∧ (pairOn compareIt).spanFenced 0 (ckptOf compareIt).span = false ∧
    (pairOn compareIt).power.ready = true := by decide +kernel
theorem pair_page (p : Nat) (h : 7 ≤ p ∧ p ≤ 11) : PageGood (pairOn drainIt) 0 p ∧ PageGood (pairOn compareIt) 0 p := by
  have hp : p = 7 ∨ p = 8 ∨ p = 9 ∨ p = 10 ∨ p = 11 := by omega
  rcases hp with rfl | rfl | rfl | rfl | rfl <;> (unfold PageGood; decide +kernel)
theorem wit_Checkpoints_pair_pages : (pairOn drainIt).slotAddr 0 0 = 0x8000 ∧ ((pairOn drainIt).ckpt (slotKey 0 0)).pages = 4 ∧
    RangeGood (pairOn drainIt) 0 ((0x8000 : Nat) : Int) (4096 * 4) ∧ (pairOn drainIt).portOfRole 7 = some 1 ∧
    ((pairOn drainIt).port 1).state = .up ∧ ((pairOn drainIt).die (1 / 2)).fenced = false ∧
    VatSound (pairOn compareIt) 0 (ckptOf compareIt).span ∧ RangeGood (pairOn compareIt) 0 ((0x7000 : Nat) : Int) 64 :=
  ⟨by decide +kernel, by decide +kernel, fun p h1 h2 => (pair_page p (by omega)).1, by decide +kernel, by decide +kernel, by decide +kernel,
    ⟨by decide +kernel, by decide +kernel⟩, range_in_page _ _ 7 _ _ (by decide) (by decide) (pair_page 7 (by decide)).2⟩

/-! ### Tenants, keys, mailboxes, IDE -/

/-- An operation on tenant `n`: a REMOVE has a limit of 1 µs, IMPORT and EXPORT move page 5 of CLASS 1 from or to host address 0. -/
def keyIt (op n : Nat) : Desc :=
  body 10 (packWord [(op, 60), (n, 53), (if op = 2 then 1 else 0, 32), (if 3 ≤ op then 1 else 0, 0)]) 0
    (if 3 ≤ op then packWord [(0x5000, 22)] else 0) 0 (if 3 ≤ op then packWord [(1, 62)] else 0) 0
/-- Tenant 0 with a transport key and page 5; tenant 1 as given; queue 0 of tenant 0 has the entry, queue 1 is tenant 1's. -/
def withKey (q : Queue) : Queue := { q with entries := q.entries.map (fun e => { e with transport := some 9 }) }
def keyed (x : Desc) (one : Tenant) (busy : Bool) : State := (({ State.running live x with
    tags := [(5, { assigned := true, cls := 1 })]
    sec := { live.sec with tenants := [(0, { state := .active, slot0 := some (KeySlot.fresh 0 0), transport := some 9 }),
      (1, one)] } }).modQueue 0 withKey).setQueue 1
  { owner := 1, enable := true, accepted := 1, entries := if busy then [{ seq := 1, desc := x, stat := .started }] else [] }
def active1 : Tenant := { state := .active, slot0 := some (KeySlot.fresh 0 1) }
theorem wit_Tenants_checks : (∃ e, ((keyed (keyIt 0 1) {} false).queue (qnum 0 0)).entry 1 = some e ∧ e.stat = .started ∧ e.desc = keyIt 0 1 ∧
      (keyed (keyIt 0 1) {} false).itsTurn (qnum 0 0) e = true) ∧
    (keyIt 0 1).cls = 10 ∧ (∀ op, op < 5 → (keyDescOf (keyIt op 1)).op = op) ∧ (keyDescOf (keyIt 0 0)).bad 0 = true ∧
    ((keyDescOf (keyIt 0 2)).bad 0 = false ∧ (keyed (keyIt 0 2) {} false).keyIllegal (qnum 0 0) 1 (keyDescOf (keyIt 0 2)) = true) ∧
    ((keyed (keyIt 1 1) { active1 with sweep := true } false).keyIllegal (qnum 0 0) 1 (keyDescOf (keyIt 1 1)) = false ∧
      (keyed (keyIt 1 1) { active1 with sweep := true } false).keySweepBusy (keyDescOf (keyIt 1 1)) = true) ∧
    (keyed (keyIt 0 1) {} false).keyCheck 0 (qnum 0 0) 1 (keyDescOf (keyIt 0 1)) = none ∧
    (keyed (keyIt 1 1) active1 false).keyCheck 0 (qnum 0 0) 1 (keyDescOf (keyIt 1 1)) = none :=
  ⟨⟨{ seq := 1, desc := keyIt 0 1, stat := .started, transport := some 9 }, by decide +kernel⟩, by decide +kernel⟩
theorem wit_Tenants_remove : (keyed (keyIt 2 1) active1 false).keyCheck 0 (qnum 0 0) 1 (keyDescOf (keyIt 2 1)) = none ∧
    (keyed (keyIt 2 1) active1 false).tenantBusy 1 = false ∧
    (keyed (keyIt 2 1) active1 true).keyCheck 0 (qnum 0 0) 1 (keyDescOf (keyIt 2 1)) = none ∧ active1.state = .active ∧ active1.removeFrom ≠ 3 ∧
    ((keyed (keyIt 2 1) active1 true).beginRemove (qnum 0 0) 1 1).tenantBusy 1 = true ∧
    (keyed (keyIt 2 1) { active1 with state := .removing } false).keyCheck 0 (qnum 0 0) 1 (keyDescOf (keyIt 2 1)) = none ∧
    (keyed (keyIt 2 1) { active1 with state := .removing } false).tenantBusy 1 = false ∧
    (keyed (keyIt 2 1) { active1 with state := .removing, remover := some (0, 1) } true).removerRuns
      { active1 with state := .removing, remover := some (0, 1) } = true := by decide +kernel
theorem wit_Tenants_pages : (∀ op, op = 3 ∨ op = 4 → (keyed (keyIt op 0) {} false).keyCheck 0 (qnum 0 0) 1 (keyDescOf (keyIt op 0)) = none) ∧
    (∀ op, op = 3 ∨ op = 4 → (keyed (keyIt op 0) {} false).transportFor (qnum 0 0) 1 = some 9) ∧
    (∀ i, i < (keyDescOf (keyIt 3 0)).pages → MovesPage (keyed (keyIt 3 0) {} false) 0 (keyDescOf (keyIt 3 0)) i) ∧
    ((keyed (keyIt 3 0) {} false).tenant 0).hasKey ((keyed (keyIt 3 0) {} false).tenant 0).newest = true ∧
    (∀ i p, i < (keyDescOf (keyIt 4 0)).pages → p = pageOf (keyDescOf (keyIt 4 0)).hbm + i →
      ((keyed (keyIt 4 0) {} false).tenant 0).hasKey ((keyed (keyIt 4 0) {} false).tag p).epoch = true ∧
      (keyed (keyIt 4 0) {} false).macFits p = true ∧ ((keyed (keyIt 4 0) {} false).tag p).poison = false ∧
      (keyed (keyIt 4 0) {} false).badWords p .correctable = [] ∧ (keyed (keyIt 4 0) {} false).badWords p .uncorrectable = []) ∧
    ∀ i, i < (keyDescOf (keyIt 3 0)).pages →
      ((keyed (keyIt 3 0) {} false).tenant 0).hasKey ((keyed (keyIt 3 0) {} false).tag (pageOf (keyDescOf (keyIt 3 0)).hbm + i)).epoch = true := by
  have h : (keyDescOf (keyIt 4 0)).pages = 1 ∧ (keyDescOf (keyIt 3 0)).pages = 1 := by decide +kernel
  refine ⟨?_, ?_, ?_, by decide +kernel, ?_, ?_⟩
  · rintro op (rfl | rfl) <;> decide +kernel
  · rintro op (rfl | rfl) <;> decide +kernel
  · intro i hi; rw [h.2] at hi; obtain rfl : i = 0 := by omega
    unfold MovesPage; decide +kernel
  · intro i p hi hp; rw [h.1] at hi; obtain rfl : i = 0 := by omega
    subst hp; decide +kernel
  · intro i hi; rw [h.2] at hi; obtain rfl : i = 0 := by omega
    decide +kernel

def updater (busy : Bool) (len : BitVec 32) : State := { rdy with sec := { rdy.sec with fwBusy := busy, fwLen := len } }
theorem wit_FirmwareAndKeys : rdy.power.ready = true ∧ (updater false 0).sec.fwBusy = false ∧ (updater false 0).sec.fwLen = 0 ∧
    2 ^ 25 < (updater false 0x2000001).sec.fwLen.toNat ∧ (updater false 0x2000000).sec.fwLen ≠ 0 ∧
    (updater false 0x2000000).sec.fwLen.toNat ≤ 2 ^ 25 ∧ (updater true 0).sec.fwBusy = true ∧ rdy.sec.keyOp = .none ∧
    bitAt (1 : Word) 1 = false ∧ (∃ s : State, s.sec.keyOp = .revoke 7) ∧ ∃ s : State, s.sec.keyOp = .enroll 7 64 :=
  ⟨by decide, by decide, by decide, by decide, by decide, by decide, by decide, by decide, by decide +kernel,
    ⟨{ sec := { keyOp := .revoke 7 } }, rfl⟩, ⟨{ sec := { keyOp := .enroll 7 64 } }, rfl⟩⟩

def idle0 : Ide := { stream := .link, key := 0, range := some (0, 0, 0xFFFFF) }
def answering (heavy : Bool) : State := { ideLive with sec := { ideLive.sec with
  overload := heavy, spdm := [(0, { session := 2 }), (1, { session := 1 })], ide := [idle0] } }
theorem wit_MailboxesAndIde : (answering false).troroikAnswers = true ∧ (answering true).troroikAnswers = true ∧
    (answering true).sec.overload = true ∧ (answering false).sec.overload = false ∧ (1 ≤ (1#8).toNat ∧ (10#8).toNat ≤ 10 ∧ 10 < (11#8).toNat ∧
      (11#8).toNat ≠ 255) ∧ ((answering false).mailbox 1).session = 1 ∧ ((answering false).mailbox 0).session = 2 ∧
    ((answering false).tenant 0).state = .active ∧ ((answering false).mailbox 2).session ≠ 1 ∧
    (answering false).sec.ide.find? (fun i => i.stream == .link) = some idle0 ∧ (answering false).ideRequired = true ∧
    (answering false).sec.ide.any (fun i => i.stream == .link && i.range.isSome) = true ∧
    deviceAlgs.filter (fun a => deviceAlgs.contains a) ≠ [] ∧ deviceAlgs.filter (fun a => ([] : List SpdmAlg).contains a) = [] := by decide +kernel

/-! ### Interrupts, flags, the log, registers -/

/-- Sources 5 and 6 of die 0 pend; vector 7 of the PF is open. -/
def pendingSrcs : State := { live with srcs := [(5, { pend := true }), (6, { pend := true, count := 0xFFFF })], msix := [(0, { enable := true, unmasked := [7] })] }
def toTroroik : State := { liveWith { image 0 0 0 [] with routes := [packWord [(0, 48), (4095, 36), (1, 35)]] } with srcs := [(5, { pend := true })] }
theorem wit_Delivery : pendingSrcs.msixHeld 0 = false ∧ pendingSrcs.pendings 0 (pendingSrcs.canDeliver 0 0) ≠ [] ∧
    ({ pendingSrcs with gHold := true }.msixHeld 0 = true) ∧ pendingSrcs.pendings 1 (pendingSrcs.canDeliver 1 0) = [] ∧
    (∃ r, pendingSrcs.routeOfKey 6 = some r ∧ pendingSrcs.srcHome 6 = 0 ∧ r.troroik = false ∧ r.fn = 0 ∧ r.vector = 7) ∧
    pendingSrcs.routeOfKey 4095 = none ∧ toTroroik.sec.alive.getLsbD 0 = true ∧ toTroroik.pendings 0 (fun r => r.troroik) ≠ [] ∧
    ({ toTroroik with sec := {} } : State).sec.alive.getLsbD 0 = false ∧ (toTroroik.die 0).switchHold = false ∧
    ((toTroroik.modDie 0 (fun x => { x with switchHold := true })).die 0).switchHold = true ∧ (31#8).toNat < 32 ∧ live.power.ready = true :=
  ⟨by decide +kernel, by decide +kernel, by decide +kernel, by decide +kernel,
    ⟨{ troroik := false, fn := 0, vector := 7, prio := 5 }, by decide +kernel⟩, by decide +kernel⟩
/-- The PF's MSI-X off while source 6 pends. -/
def msixOff : State := { pendingSrcs with msix := [] }
theorem wit_Delivery_off : (msixOff.src 6).pend = true ∧ msixOff.routeOfKey 6 = some { troroik := false, fn := 0, vector := 7, prio := 5 } ∧
    (msixOff.msixOf 0).enable = false := by decide +kernel
def stacked (xs : List (BitVec 8 × BitVec 4)) : State := { rdy with dies := [(0, { pfStack := xs })] }
theorem noVector (xs : List (BitVec 8 × BitVec 4)) (v : BitVec 8) (h : xs.all (fun x => x.1 != v) = true) : ∀ x ∈ xs, x.1 ≠ v :=
  fun x hx => bne_iff_ne.mp (List.all_eq_true.mp h x hx)
theorem wit_VectorCompletion : rdy.power.ready = true ∧ ((stacked [(7, 1)]).die 0).pfStack = ((0x107 : Word).truncate 8, 1) :: [] ∧
    (((stacked [(3, 0), (5, 1), (7, 2), (7, 3)]).die 0).pfStack = (3, 0) :: [(5, 1)] ++ ((0x07 : Word).truncate 8, 2) :: [(7, 3)] ∧
      (3 : BitVec 8) ≠ (0x07 : Word).truncate 8 ∧ ∀ x ∈ [((5 : BitVec 8), (1 : BitVec 4))], x.1 ≠ (0x07 : Word).truncate 8) ∧
    (∀ x ∈ ((stacked [(7, 1)]).die 0).pfStack, x.1 ≠ (0x08 : Word).truncate 8) ∧
    ∀ x ∈ (rdy.die 0).pfStack, x.1 ≠ (0x08 : Word).truncate 8 :=
  ⟨by decide +kernel, by decide +kernel, ⟨by decide +kernel, by decide, noVector _ _ (by decide)⟩, noVector _ _ (by decide +kernel),
    noVector _ _ (by decide +kernel)⟩
def aRec (t : Word) : LogRec := { time := t, event := 12, code := 3, detail := 4, source := 5 }
def logging (t : Word) : State := { live with dies := [(0, { image := (live.die 0).image, logQueue := [aRec t] })]
                                              log := [(0, { time := 0, seq := 1, code := 3, event := 12, detail := 4, source := 5 })] }
theorem wit_FlagsCountersLog : live.power.ready = true ∧ live.srcServed 0 0x1C1B = true ∧ live.srcServed 1 0x1D00 = false ∧
    srcAssigned (0x1C1B#14).toNat = true ∧ srcAssigned (0x1C1C#14).toNat = false ∧ pwrFlag (0x1D0C#14).toNat = true ∧
    pwrFlag (0x1D0D#14).toNat = false ∧ live.sec.alive.getLsbD 0 = true ∧ (live.die 0).logQueue = [] ∧
    ((logging 1000000).die 0).logQueue = aRec 1000000 :: [] ∧
    (∃ k e, (logging 1000000).newestOf 0 (aRec 1000000).event = some (k, e) ∧ merges ((logging 1000000).die 0).coalesceUs false (aRec 1000000) e = true) ∧
    ∃ k e, (logging 1000001).newestOf 0 (aRec 1000001).event = some (k, e) ∧ merges ((logging 1000001).die 0).coalesceUs false (aRec 1000001) e = false :=
  ⟨by decide, by decide +kernel, by decide +kernel, by decide, by decide, by decide, by decide, by decide, by decide +kernel, by decide +kernel,
    ⟨0, { time := 0, seq := 1, code := 3, event := 12, detail := 4, source := 5 }, by decide +kernel⟩,
    ⟨0, { time := 0, seq := 1, code := 3, event := 12, detail := 4, source := 5 }, by decide +kernel⟩⟩
theorem wit_BeforeReady : State.reset.power.ready = false ∧ servedEarly (0x40001F8#27).toNat = false ∧ servedEarly (0x4000300#27).toNat = false ∧
    servedEarly (0x100018#27).toNat = false ∧ servedEarly (0x40002F8#27).toNat = true := by decide
theorem wit_Registers : (4#27).toNat % 8 ≠ 0 ∧ ((1 : Fn) ≠ 0 ∧ 2 ^ 20 ≤ (0x100000#27).toNat) ∧ live.mayWrite ((0xFFFF8#27).toNat / 256) 1 = false ∧
    live.power.ready = true ∧ live.img.turnState = .idle ∧ (inTurn .drain 0).img.turnState ≠ .idle ∧ (inTurn .drain 0).power.ready = true ∧
    bitAt (0xFFFF0000 : Word) 0 = false ∧ (live.queue (qnum 3 1023)).owner = 0 ∧ (live.queue (qnum 3 1023)).enable = false ∧ bitAt (1 : Word) 0 = true := by
  decide +kernel

end Sys2Proof.Tests
end

/-! SUPPORT. Before READY (R61): what BAR0 serves, and doorbells. -/

namespace Sys2Proof.Machine

/-! ### Answers that change nothing -/

theorem answer_self (s : State) : answer s s = .next s := rfl

theorem answerStore_self (s : State) : answerStore s s s.store = .next s := by
  simp [answerStore, answer_self]

/-! ### The registers served early -/

/-- In a die's window: the rate, the temperature and the reset register. -/
theorem servedEarly_die_eq_false {a : Nat} (ha : a < 0x4000000) :
    servedEarly a = false ↔
      a % 0x1000000 ≠ 0x100000 ∧ a % 0x1000000 ≠ 0x100008 ∧ a % 0x1000000 ≠ 0x100010 := by
  simp [servedEarly, ha, and_assoc]

/-- Among the package registers: the two time registers and the PWR_ registers. -/
theorem servedEarly_pkg_eq_false {a : Nat} (ha : ¬ a < 0x4000000) :
    servedEarly a = false ↔
      ¬ (a - 0x4000000 = 0x100 ∨ a - 0x4000000 = 0x108 ∨ (0x200 ≤ a - 0x4000000 ∧ a - 0x4000000 < 0x300)) := by
  simp [servedEarly, ha, and_assoc]

/-! ### Writes before READY -/

theorem State.writeDieReg_not_ready {s : State} (hr : s.power.ready = false) (d : DieId) {o : Nat} (v : Word)
    (ho : o ≠ 0x100010) : s.writeDieReg d o v = s := by
  rw [State.writeDieReg, if_neg ho, State.whenReady_not hr]

theorem State.writePackageReg_not_ready {s : State} (hr : s.power.ready = false) {o : Nat} (v : Word)
    (ho : ¬ (o = 0x108 ∨ (0x200 ≤ o ∧ o < 0x300))) : s.writePackageReg o v = s := by
  simp only [State.writePackageReg, if_neg ho, State.whenReady_not hr, ite_self]

/-- A VF's BAR0 serves nothing before READY; the PF's serves the early registers alone. -/
theorem State.writeReg_not_ready {s : State} (hr : s.power.ready = false) (fn : Fn) {a : Nat} (v : Word)
    (he : servedEarly a = false) : s.writeReg fn a v = s := by
  by_cases hal : a % 8 ≠ 0
  · rw [State.writeReg, if_pos hal]
  by_cases hfn : fn ≠ 0
  · rw [State.writeReg, if_neg hal, if_pos hfn, State.whenReady_not hr, ite_self]
  by_cases hd : a / 0x1000000 < 4
  · have hlt : a < 0x4000000 := by omega
    obtain ⟨_, _, hreset⟩ := (servedEarly_die_eq_false hlt).mp he
    rw [State.writeReg, if_neg hal, if_neg hfn, dif_pos hd, State.writeDieReg_not_ready hr _ v hreset]
  · have hpkg := (servedEarly_pkg_eq_false (by omega)).mp he
    rw [State.writeReg, if_neg hal, if_neg hfn, dif_neg hd,
      State.writePackageReg_not_ready hr v (fun h => hpkg (.inr h))]

theorem State.writeStore_not_ready {s : State} (hr : s.power.ready = false) (fn : Fn) (a : Nat) (v : Word) :
    s.writeStore fn a v = s.store := by
  simp [State.writeStore, State.floorStore, hr]

theorem exec_registerWrite_not_ready {s : State} (hr : s.power.ready = false) (fn : Fn) {a : BitVec 27} (v : Word)
    (he : servedEarly a.toNat = false) : exec (.registerWrite fn a v) s = .next s := by
  change answerStore s (s.writeReg fn a.toNat v) (s.writeStore fn a.toNat v) = .next s
  rw [State.writeReg_not_ready hr fn v he, State.writeStore_not_ready hr, answerStore_self]

/-! ### Reads before READY -/

theorem State.readDieReg_not_ready {s : State} (hr : s.power.ready = false) (d : Nat) {o : Nat}
    (hrate : o ≠ 0x100000) (htemp : o ≠ 0x100008) : s.readDieReg d o = 0 := by
  simp [State.readDieReg, hrate, htemp, hr]

theorem State.readReg_not_ready {s : State} (hr : s.power.ready = false) (fn : Fn) {a : Nat}
    (he : servedEarly a = false) : s.readReg fn a = 0 := by
  by_cases hal : a % 8 ≠ 0
  · simp [State.readReg, hal]
  by_cases hfn : fn ≠ 0
  · simp [State.readReg, hfn, hr]
  by_cases hd : a < 0x4000000
  · obtain ⟨hrate, htemp, _⟩ := (servedEarly_die_eq_false hd).mp he
    rw [State.readReg, if_neg hal, if_neg hfn, if_pos hd, State.readDieReg_not_ready hr _ hrate htemp]
  · have hpkg := (servedEarly_pkg_eq_false hd).mp he
    simp only [State.readReg, if_neg hal, if_neg hfn, if_neg hd, if_neg hpkg, hr, Bool.not_false, if_true]

/-- LOG_TIME_NOW is served in every state. -/
theorem State.readReg_logTimeNow (s : State) : s.readReg 0 0x4000100 = s.time.now := by
  simp [State.readReg, State.readPwrReg]

/-! ### Doorbells that are not heard (R195) -/

theorem State.hearsDoorbells_not_ready {s : State} (hr : s.power.ready = false) : s.hearsDoorbells = false := by
  simp [State.hearsDoorbells, hr]

theorem State.ring_not_heard {s : State} (hh : s.hearsDoorbells = false) (Q : Nat) (fn : Fn) (tail : Nat)
    (ide : Option IdeStream) : s.ring Q fn tail ide = s := by
  simp [State.ring, hh]

theorem exec_doorbell_not_heard {s : State} (hh : s.hearsDoorbells = false) (d : DieId) (q : QId) (fn : Fn)
    (tail : BitVec 48) (ide : Option IdeStream) : exec (.doorbell d q fn tail ide) s = .next s := by
  change answer s (s.ring (qnum d q) fn tail.toNat ide) = .next s
  rw [State.ring_not_heard hh, answer_self]

/-! ### The statement -/

/-- Settles O59: every write and read outside the early registers runs into a test of READY, and so does a doorbell. -/
theorem beforeReady : Obligations.BeforeReady := by
  unfold Obligations.BeforeReady
  intro s hr
  refine ⟨fun fn a v he => ⟨?_, ?_⟩, ?_, ?_⟩
  · exact exec_registerWrite_not_ready hr fn v he
  · exact State.readReg_not_ready hr fn he
  · exact State.readReg_logTimeNow s
  · exact exec_doorbell_not_heard (State.hearsDoorbells_not_ready hr)

end Sys2Proof.Machine

/-! SUPPORT. What leaves the sealed stores alone (R338): every operation of start-up, recovery and fences but the adoption
of the stores at start-up step 2. -/

namespace Sys2Proof.Machine

/-- The sealed store as the Troroiks have loaded it, and each die's own copy (R338). -/
def State.sealedStores (s : State) : Store × SMap Store := (s.store, s.stores)

/-! ### Loops and branches -/

@[simp] theorem foldl_sealedStores {β : Type} {f : State → β → State}
    (hf : ∀ (t : State) (b : β), (f t b).sealedStores = t.sealedStores) (s : State) (bs : List β) :
    (bs.foldl f s).sealedStores = s.sealedStores := by
  induction bs generalizing s with
  | nil => rfl
  | cons b bs ih => exact (ih (f s b)).trans (hf s b)

@[simp] theorem ite_sealedStores {c : Prop} [Decidable c] (t u : State) :
    (if c then t else u).sealedStores = if c then t.sealedStores else u.sealedStores := apply_ite _ _ _ _

section
variable (s : State)

/-! ### Writers of one record

The parentheses around `rfl` make these rules that `simp` also uses in the body of a loop. -/

@[simp] theorem State.modDie_sealedStores (d : Nat) (g : Die → Die) : (s.modDie d g).sealedStores = s.sealedStores := (rfl)
@[simp] theorem State.modQueue_sealedStores (Q : Nat) (g : Queue → Queue) :
    (s.modQueue Q g).sealedStores = s.sealedStores := (rfl)
@[simp] theorem State.modGroup_sealedStores (k : Nat) (g : GroupLed → GroupLed) :
    (s.modGroup k g).sealedStores = s.sealedStores := (rfl)
@[simp] theorem State.modPort_sealedStores (p : Nat) (g : Port → Port) :
    (s.modPort p g).sealedStores = s.sealedStores := (rfl)
@[simp] theorem State.modCkpt_sealedStores (k : Nat) (g : CkptSlot → CkptSlot) :
    (s.modCkpt k g).sealedStores = s.sealedStores := (rfl)
@[simp] theorem State.modBlock_sealedStores (k : Nat) (g : Block → Block) :
    (s.modBlock k g).sealedStores = s.sealedStores := (rfl)
@[simp] theorem State.modPbank_sealedStores (i : Nat) (g : PBank → PBank) :
    (s.modPbank i g).sealedStores = s.sealedStores := (rfl)
@[simp] theorem State.modJobFlags_sealedStores (i : Nat) (g : JobPlain → JobPlain) :
    (s.modJobFlags i g).sealedStores = s.sealedStores := (rfl)
@[simp] theorem State.setAdapter_sealedStores (i : Nat) (v : Halves Adapter) :
    (s.setAdapter i v).sealedStores = s.sealedStores := (rfl)
@[simp] theorem State.setPfx_sealedStores (i : Nat) (v : Halves Pfx) :
    (s.setPfx i v).sealedStores = s.sealedStores := (rfl)
@[simp] theorem State.setTenant_sealedStores (t : Nat) (v : Tenant) :
    (s.setTenant t v).sealedStores = s.sealedStores := (rfl)
@[simp] theorem State.drawKeys_sealedStores : s.drawKeys.2.sealedStores = s.sealedStores := (rfl)
@[simp] theorem State.draw_sealedStores : s.draw.2.sealedStores = s.sealedStores := (rfl)
@[simp] theorem State.seal_sealedStores (p : Nat) : (s.seal p).sealedStores = s.sealedStores := (rfl)
@[simp] theorem State.setHost_sealedStores (fn a : Nat) (bs : List Byte) :
    (s.setHost fn a bs).sealedStores = s.sealedStores := (rfl)
@[simp] theorem State.zeroCurd_sealedStores (d c : Nat) : (s.zeroCurd d c).sealedStores = s.sealedStores := (rfl)
@[simp] theorem State.settleGates_sealedStores (d : Nat) : (s.settleGates d).sealedStores = s.sealedStores := (rfl)
@[simp] theorem State.settlePending_sealedStores : s.settlePending.sealedStores = s.sealedStores := (rfl)
@[simp] theorem State.settleSlots_sealedStores (d : Nat → Bool) : (s.settleSlots d).sealedStores = s.sealedStores := (rfl)
@[simp] theorem State.endDrains_sealedStores (g : Nat) : (s.endDrains g).sealedStores = s.sealedStores := (rfl)
@[simp] theorem State.clearCkptMarks_sealedStores (g : Nat) : (s.clearCkptMarks g).sealedStores = s.sealedStores := (rfl)
@[simp] theorem State.clearEngines_sealedStores (d : Nat) : (s.clearEngines d).sealedStores = s.sealedStores := (rfl)
@[simp] theorem State.allDies_sealedStores (g : Die → Die) : (s.allDies g).sealedStores = s.sealedStores := by
  simp [State.allDies]

/-! ### Events and records to the log -/

@[simp] theorem State.raise_sealedStores (d src : Nat) : (s.raise d src).sealedStores = s.sealedStores := (rfl)
@[simp] theorem State.raiseIf_sealedStores (b : Bool) (d src : Nat) :
    (s.raiseIf b d src).sealedStores = s.sealedStores := by simp [State.raiseIf]
@[simp] theorem State.post_sealedStores (d event : Nat) (code : Code) (detail src : Nat) :
    (s.post d event code detail src).sealedStores = s.sealedStores := by
  rw [State.post_frame]
  rfl

/-! ### Completion areas -/

@[simp] theorem State.setHbm_sealedStores (a : Nat) (bs : List Byte) : (s.setHbm a bs).sealedStores = s.sealedStores := by
  rw [State.setHbm]
  split <;> rfl
@[simp] theorem State.writeArea_sealedStores (owner : Nat) (base : Word) (off : Nat) (bs : List Byte) :
    (s.writeArea owner base off bs).sealedStores = s.sealedStores := by simp [State.writeArea, State.storeHbm]
@[simp] theorem State.writeCursors_sealedStores (Q : Nat) : (s.writeCursors Q).sealedStores = s.sealedStores := by
  simp [State.writeCursors]
@[simp] theorem State.writeRecord_sealedStores (Q seq : Nat) (code : Code) :
    (s.writeRecord Q seq code).sealedStores = s.sealedStores := by simp [State.writeRecord]

/-! ### Records in halves and their pins -/

@[simp] theorem State.mapHalves_sealedStores (learning : Bool) (d adapters : Nat → Bool)
    (g : {α : Type} → Halves α → Halves α) : (s.mapHalves learning d adapters g).sealedStores = s.sealedStores := by
  rw [State.mapHalves]
  split
  · exact foldl_sealedStores (by simp) _ _
  · rfl
@[simp] theorem State.settlePfxs_sealedStores (n : Nat) : (s.settlePfxs n).sealedStores = s.sealedStores := by
  induction n generalizing s with
  | zero => rfl
  | succ n ih =>
    rw [State.settlePfxs]
    split
    · simp [ih]
    · rfl
@[simp] theorem State.settleGens_sealedStores : s.settleGens.sealedStores = s.sealedStores := by
  rw [State.settleGens]
  refine foldl_sealedStores (fun t i => ?_) _ _
  dsimp only
  split
  · simp
  · rfl
@[simp] theorem State.settleRefs_sealedStores : s.settleRefs.sealedStores = s.sealedStores := by simp [State.settleRefs]
@[simp] theorem State.undoBeyond_sealedStores (Q seq : Nat) : (s.undoBeyond Q seq).sealedStores = s.sealedStores := by
  simp [State.undoBeyond]

/-! ### Queues and what waits for their commits -/

@[simp] theorem State.haltAt_sealedStores (Q seq : Nat) (code : Code) :
    (s.haltAt Q seq code).sealedStores = s.sealedStores := by simp [State.haltAt]
@[simp] theorem State.closeEntry_sealedStores (Q : Nat) (e : Entry) (code : Code) :
    (s.closeEntry Q e code).sealedStores = s.sealedStores := by simp [State.closeEntry]
@[simp] theorem State.closeReady_sealedStores (Q n : Nat) : (s.closeReady Q n).sealedStores = s.sealedStores := by
  induction n generalizing s with
  | zero => rfl
  | succ n ih =>
    rw [State.closeReady]
    split
    · split
      · simp [ih]
      · rfl
    · rfl
@[simp] theorem State.settleAllGates_sealedStores : s.settleAllGates.sealedStores = s.sealedStores := by
  simp [State.settleAllGates]
@[simp] theorem State.dropRestore_sealedStores (g : Nat) : (s.dropRestore g).sealedStores = s.sealedStores := by
  simp [State.dropRestore, State.discardHalves]
@[simp] theorem State.dropWork_sealedStores (Q : Nat) : (s.dropWork Q).sealedStores = s.sealedStores := by
  simp [State.dropWork]
@[simp] theorem State.resetQueue_sealedStores (Q : Nat) : (s.resetQueue Q).sealedStores = s.sealedStores := by
  simp [State.resetQueue]
@[simp] theorem State.settleHalted_sealedStores : s.settleHalted.sealedStores = s.sealedStores := by
  rw [State.settleHalted]
  split <;> rfl
@[simp] theorem State.disableQueue_sealedStores (Q : Nat) : (s.disableQueue Q).sealedStores = s.sealedStores := by
  simp [State.disableQueue]
@[simp] theorem State.settleWaiting_sealedStores (g : Nat) : (s.settleWaiting g).sealedStores = s.sealedStores := by
  simp [State.settleWaiting]
@[simp] theorem State.dropPrepared_sealedStores (g : Nat) : (s.dropPrepared g).sealedStores = s.sealedStores := by
  simp [State.dropPrepared]
@[simp] theorem State.failCommit_sealedStores (g : Nat) (code : Code) :
    (s.failCommit g code).sealedStores = s.sealedStores := by
  simp only [State.failCommit, State.settleAllGates_sealedStores, State.settleWaiting_sealedStores]
  refine (foldl_sealedStores (fun t Q => ?_) _ _).trans (s.dropPrepared_sealedStores g)
  split
  · simp
  · rfl
@[simp] theorem State.endHold_sealedStores (g : Nat) : (s.endHold g).sealedStores = s.sealedStores := by
  rw [State.endHold]
  refine foldl_sealedStores (fun t d => ?_) _ _
  split
  · simp
  · rfl
@[simp] theorem State.closeCkpt_sealedStores (g : Nat) (code : Code) :
    (s.closeCkpt g code).sealedStores = s.sealedStores := by
  rw [State.closeCkpt]
  refine (foldl_sealedStores (fun t Q => ?_) _ _).trans (by simp)
  split
  · simp
  · rfl

/-! ### Fences -/

@[simp] theorem State.haltHere_sealedStores (Q : Nat) (code : Code) (updates : Bool) :
    (s.haltHere Q code updates).sealedStores = s.sealedStores := by simp [State.haltHere]
@[simp] theorem State.fenceQueue_sealedStores (Q : Nat) (here : Desc → Bool) (boundHere updates : Bool) :
    (s.fenceQueue Q here boundHere updates).sealedStores = s.sealedStores := by
  rw [State.fenceQueue]
  split
  · simp
  · simp
@[simp] theorem State.holdPaired_sealedStores (Qs : List Nat) : (s.holdPaired Qs).sealedStores = s.sealedStores := by
  simp [State.holdPaired]
@[simp] theorem State.tellPartner_sealedStores : s.tellPartner.sealedStores = s.sealedStores := by
  rw [State.tellPartner, State.sayPartner]
  split
  · simp
  · rfl
@[simp] theorem State.noteFence_sealedStores : s.noteFence.sealedStores = s.sealedStores := by
  rw [State.noteFence]
  split <;> rfl
@[simp] theorem State.fenceDie_sealedStores (d cause : Nat) : (s.fenceDie d cause).sealedStores = s.sealedStores := by
  simp [State.fenceDie]

/-! ### Ports and applied records -/

@[simp] theorem State.jobLost_sealedStores (j : Nat) : (s.jobLost j).sealedStores = s.sealedStores := by
  simp [State.jobLost]
@[simp] theorem State.frameLost_sealedStores (p : Nat) (f : Frame) : (s.frameLost p f).sealedStores = s.sealedStores := by
  rw [State.frameLost]
  split
  · rfl
  · rfl
  · exact s.jobLost_sealedStores _
  · rfl
@[simp] theorem State.leaveUp_sealedStores (p : Nat) (st : PortState) :
    (s.leaveUp p st).sealedStores = s.sealedStores := by simp [State.leaveUp]
@[simp] theorem State.settlePort_sealedStores (p : Nat) : (s.settlePort p).sealedStores = s.sealedStores := by
  simp [State.settlePort]
@[simp] theorem State.settleRoles_sealedStores (d : Nat) (old : Nat → Nat) :
    (s.settleRoles d old).sealedStores = s.sealedStores := by simp [State.settleRoles]
@[simp] theorem State.gateRegion_sealedStores (d : Nat) (h : Half) (old new : Option Image) :
    (s.gateRegion d h old new).sealedStores = s.sealedStores := by simp [State.gateRegion]
@[simp] theorem State.applyDie_sealedStores (d : Nat) (im : Option Image) :
    (s.applyDie d im).sealedStores = s.sealedStores := by simp [State.applyDie]
@[simp] theorem State.applyAll_sealedStores (im : Option Image) : (s.applyAll im).sealedStores = s.sealedStores := by
  simp [State.applyAll]

/-! ### Recovery (R204) -/

@[simp] theorem State.recoverGroup_sealedStores (g : Nat) : (s.recoverGroup g).sealedStores = s.sealedStores := by
  simp [State.recoverGroup, State.commitHalves]
@[simp] theorem State.rewriteCurrent_sealedStores : s.rewriteCurrent.sealedStores = s.sealedStores := by
  rw [State.rewriteCurrent]
  split
  · rfl
  · simp
@[simp] theorem State.reloadQueue_sealedStores (Q : Nat) : (s.reloadQueue Q).sealedStores = s.sealedStores := by
  simp [State.reloadQueue, State.recoverQueue]
@[simp] theorem State.recover_sealedStores (d : Nat → Bool) (pkg : Bool) :
    (s.recover d pkg).sealedStores = s.sealedStores := by simp [State.recover]

/-! ### Steps of a start-up -/

@[simp] theorem State.bootFails_sealedStores (d : Nat) (code : Code) :
    (s.bootFails d code).sealedStores = s.sealedStores := (rfl)
@[simp] theorem State.nextStep_sealedStores : s.nextStep.sealedStores = s.sealedStores := (rfl)
@[simp] theorem State.bootTroroik_sealedStores (d : Nat) : (s.bootTroroik d).sealedStores = s.sealedStores := by
  rw [State.bootTroroik]
  split <;> rfl
@[simp] theorem State.createFirst_sealedStores : s.createFirst.sealedStores = s.sealedStores := by
  simp [State.createFirst]
@[simp] theorem State.stepFour_sealedStores : s.stepFour.sealedStores = s.sealedStores := by
  refine .trans ?_ (s.allDies_sealedStores (fun x => { x with hbm := .inService }))
  rw [State.stepFour]
  split
  · rfl
  · split <;> rfl
@[simp] theorem State.reverifySlot_sealedStores (kind : Nat) : (s.reverifySlot kind).sealedStores = s.sealedStores := by
  rw [State.reverifySlot]
  split
  · rfl
  · split
    · rfl
    · rw [State.raise_sealedStores, ite_sealedStores]
      split <;> rfl
@[simp] theorem State.reactivate_sealedStores (had : Bool) : (s.reactivate had).sealedStores = s.sealedStores := by
  rw [State.reactivate]
  split
  · exact State.applyAll_sealedStores _ _
  · split
    · exact State.applyAll_sealedStores _ _
    · rfl
@[simp] theorem State.stepSix_sealedStores : s.stepSix.sealedStores = s.sealedStores := by
  have hready : ∀ t : State, ({ t with power := { t.power with ready := true, booting := false, bootPor := false } } :
      State).sealedStores = t.sealedStores := fun _ => rfl
  have hrun : ({ s with time := { s.time with running := true } } : State).sealedStores = s.sealedStores := (rfl)
  simp [State.stepSix, hready, hrun]
@[simp] theorem State.applyBypass_sealedStores (d : Nat) (t : SelfTest) :
    (s.applyBypass d t).sealedStores = s.sealedStores := by simp [State.applyBypass]
@[simp] theorem State.dieStays_sealedStores (d cause : Nat) (failed : List StackId) :
    (s.dieStays d cause failed).sealedStores = s.sealedStores := by simp [State.dieStays]
@[simp] theorem State.dieStepSix_sealedStores (d : Nat) : (s.dieStepSix d).sealedStores = s.sealedStores := by
  simp [State.dieStepSix]

end

end Sys2Proof.Machine

/-! SUPPORT. Records of the sealed stores (R338): the newest of four, what a write into the unfenced dies' stores leaves, and
what start-up step 2 loads. -/

namespace Sys2Proof.Machine

/-! ### The newest record -/

section
variable {α : Type}

theorem newest_none {rs : List (Stored α)} (h : newest rs = none) : ∀ x ∈ rs, x.auth = false := by
  induction rs with
  | nil => simp
  | cons y ys ih =>
    rw [newest] at h
    split at h
    · next hys => exact List.forall_mem_cons.mpr ⟨by simpa using h, ih hys⟩
    · split at h <;> cases h

/-- The newest record is one of those listed and authenticates, and no record that authenticates has a higher version. -/
theorem newest_some {rs : List (Stored α)} {r : Stored α} (h : newest rs = some r) :
    r ∈ rs ∧ r.auth = true ∧ ∀ x ∈ rs, x.auth = true → x.ver ≤ r.ver := by
  induction rs generalizing r with
  | nil => cases h
  | cons y ys ih =>
    rw [newest] at h
    split at h
    · next hys =>
      obtain ⟨hy, rfl⟩ : y.auth = true ∧ y = r := by simpa using h
      exact ⟨List.mem_cons_self, hy, by simp +contextual [newest_none hys]⟩
    · next z hys =>
      obtain ⟨hmem, hauth, hmax⟩ := ih hys
      split at h
      · next hy =>
        obtain rfl : y = r := by simpa using h
        obtain ⟨hya, hzy⟩ : y.auth = true ∧ z.ver ≤ y.ver := by simpa using hy
        refine ⟨List.mem_cons_self, hya, fun x hx ha => ?_⟩
        obtain rfl | hx := List.mem_cons.mp hx
        · exact Nat.le_refl _
        · exact Nat.le_trans (hmax x hx ha) hzy
      · next hy =>
        obtain rfl : z = r := by simpa using h
        refine ⟨List.mem_cons_of_mem _ hmem, hauth, fun x hx ha => ?_⟩
        obtain rfl | hx := List.mem_cons.mp hx
        · have : ¬ z.ver ≤ x.ver := by simpa [ha] using hy
          omega
        · exact hmax x hx ha

/-- A record that authenticates is the newest where every other one that does has a lower version. -/
theorem newest_eq_some {rs : List (Stored α)} {r : Stored α} (hmem : r ∈ rs) (hauth : r.auth = true)
    (hmax : ∀ x ∈ rs, x.auth = true → x = r ∨ x.ver < r.ver) : newest rs = some r := by
  cases hn : newest rs with
  | none => simp [newest_none hn r hmem] at hauth
  | some z =>
    obtain ⟨hz, hza, hzmax⟩ := newest_some hn
    obtain rfl | hlt := hmax z hz hza
    · rfl
    · exact absurd (hzmax r hmem hauth) (by omega)

/-- What a write of a store makes of one of its records: it stays, or a later version that authenticates takes its place. -/
def Stored.Follows (r r' : Stored α) : Prop := r' = r ∨ (r.ver < r'.ver ∧ r'.auth = true)

theorem Stored.follows_refl (r : Stored α) : r.Follows r := .inl rfl

theorem Stored.follows_put (r : Stored α) (v : α) : r.Follows (r.put v) := .inr ⟨Nat.lt_succ_self _, rfl⟩

end

/-! ### The dies' stores after a write (R338) -/

theorem State.storeOf_setStore (s : State) (d e : Nat) (v : Store) :
    (s.setStore d v).storeOf e = if d = e then v else s.storeOf e := SMap.get_set _ _ _ _

/-- Stores written die by die, each with a value of its own. -/
theorem storeOf_foldl_setStore (v : Nat → Store) (ds : List Nat) (t : State) (e : Nat) :
    (ds.foldl (fun t d => t.setStore d (v d)) t).storeOf e = if e ∈ ds then v e else t.storeOf e := by
  induction ds generalizing t with
  | nil => simp
  | cons d ds ih =>
    rw [List.foldl_cons, ih, State.storeOf_setStore]
    by_cases he : e ∈ ds
    · simp [he]
    · by_cases hd : d = e
      · subst hd; simp
      · simp [he, hd, Ne.symm hd]

/-- A write reaches the stores of the dies that are not fenced. -/
theorem get_writeStores (s : State) (x : Store) (d : Nat) :
    SMap.get {} (s.writeStores x) d = if d ∈ s.unfenced then (s.storeOf d).carry s.store x else s.storeOf d :=
  storeOf_foldl_setStore (fun d => (s.storeOf d).carry s.store x) s.unfenced s d

theorem mem_dieIds (d : DieId) : d.val ∈ dieIds := by
  rw [show dieIds = List.range 4 from rfl]
  exact List.mem_range.mpr d.isLt

theorem State.mem_unfenced (s : State) (d : DieId) : d.val ∈ s.unfenced ↔ (s.die d.val).fenced = false := by
  simp [State.unfenced, mem_dieIds]

theorem State.mem_dieIds_of_unfenced {s : State} {d : Nat} (h : d ∈ s.unfenced) : d ∈ dieIds := (List.mem_filter.mp h).1

theorem State.storeOf_adoptStore (s : State) (x : Store) {d : Nat} (hd : d ∈ dieIds) : (s.adoptStore x).storeOf d = x := by
  rw [State.adoptStore, storeOf_foldl_setStore (fun _ => x), if_pos hd]

/-! ### What step 2 loads -/

/-- The floors that step 2 loads are the newest of the four stores. -/
theorem State.loadStores_floors {s : State} {x : Store} (h : s.loadStores = some x) :
    newest ((dieIds.map s.storeOf).map Store.genServe) = some x.genServe ∧
    newest ((dieIds.map s.storeOf).map Store.genLearn) = some x.genLearn ∧
    newest ((dieIds.map s.storeOf).map Store.fwFloor) = some x.fwFloor := by
  rw [State.loadStores] at h
  dsimp only at h
  split at h
  · next gs gl ff hgs hgl hff =>
    split at h
    · cases h
      exact ⟨hgs, hgl, hff⟩
    · cases h
  · cases h

/-! ### What a step can do to the stores -/

/-- The stores that commands write: after a write of the generation floors (R84), an update (R336), an operation on an
image-signing key slot (R337). -/
inductive State.Writes (s : State) : Store → Prop
  | genFloors (v : Word) : s.Writes (s.floorStore v)
  | firmware (r : FlashResult) : s.Writes (s.updateStore r)
  | keySlot : s.Writes s.keyStore

/-- What a step can make of the sealed stores: nothing; a write, which reaches the dies that are not fenced; what start-up
step 2 has loaded, in all four (R338). -/
inductive State.StoresBecome (s : State) : Store × SMap Store → Prop
  | kept : s.StoresBecome s.sealedStores
  | written {x : Store} (hw : s.Writes x) (hu : s.unfenced ≠ []) : s.StoresBecome (x, s.writeStores x)
  | loaded {x : Store} (hl : s.loadStores = some x) : s.StoresBecome (s.adoptStore x).sealedStores

theorem State.storesBecome_of_eq {s t : State} (h : t.sealedStores = s.sealedStores) : s.StoresBecome t.sealedStores :=
  h ▸ .kept

/-! ### Start-up steps -/

theorem State.stepTwo_stores (s : State) : s.StoresBecome s.stepTwo.sealedStores := by
  rw [State.stepTwo]
  split
  · exact .kept
  · next x hx =>
    have hboot : (dieIds.foldl State.bootTroroik (s.adoptStore x)).createFirst.nextStep.sealedStores =
        (s.adoptStore x).sealedStores := by simp
    dsimp only
    split
    · exact .loaded hx
    · rw [hboot]
      exact .loaded hx

theorem State.packageStep_stores (s : State) (r : StepResult) : s.StoresBecome (s.packageStep r).sealedStores := by
  unfold State.packageStep
  dsimp only
  split
  · exact .kept
  · cases r with
    | fail d c => exact State.storesBecome_of_eq (by simp)
    | selfTest ts =>
      refine State.storesBecome_of_eq ?_
      dsimp only
      split
      · split
        · rfl
        · rw [State.nextStep_sealedStores]
          refine foldl_sealedStores (fun t d => ?_) s dieIds
          split
          · simp
          · rfl
      · rfl
    | ok =>
      dsimp only
      split
      · exact .kept
      · exact s.stepTwo_stores
      · exact .kept
      · exact State.storesBecome_of_eq s.stepFour_sealedStores
      · exact State.storesBecome_of_eq s.stepSix_sealedStores
      · exact .kept
    | _ => exact .kept

theorem State.dieStep_sealedStores (s : State) (d : Nat) (r : StepResult) :
    (s.dieStep d r).sealedStores = s.sealedStores := by
  unfold State.dieStep
  dsimp only
  split
  · simp
  · simp
  · simp
  · simp
  · rfl

theorem State.troroikStep_stores (s : State) (d : Nat) (r : StepResult) :
    s.StoresBecome (s.troroikStep d r).sealedStores := by
  unfold State.troroikStep
  dsimp only
  split
  · split
    · exact .kept
    · next x hx =>
      split
      · exact .loaded hx
      · rw [State.modDie_sealedStores, State.bootTroroik_sealedStores]
        exact .loaded hx
  · exact .kept

theorem State.stepEnds_stores (s : State) (sc : StartScope) (r : StepResult) :
    s.StoresBecome (s.stepEnds sc r).sealedStores := by
  cases sc with
  | package => exact s.packageStep_stores r
  | die d => exact State.storesBecome_of_eq (s.dieStep_sealedStores d.val r)
  | troroik d => exact s.troroikStep_stores d.val r

end Sys2Proof.Machine

/-! SUPPORT. The generation floors only rise (R84, R336): what each step can make of the sealed stores, and of each of their
records. -/

namespace Sys2Proof.Machine

/-! ### Commands and time -/

theorem answer_stores {s t u : State} (h : answer s u = .next t) : s.StoresBecome t.sealedStores := by
  cases h
  exact .kept

theorem answerStore_stores {s t u : State} {x : Store} (hw : x = s.store ∨ s.Writes x)
    (h : answerStore s u x = .next t) : s.StoresBecome t.sealedStores := by
  rw [answerStore] at h
  split at h
  · exact answer_stores h
  · next hc =>
    obtain ⟨hne, hu⟩ := not_or.mp hc
    cases h
    exact .written (hw.resolve_left hne) hu

theorem State.writeStore_writes (s : State) (fn : Fn) (a : Nat) (v : Word) :
    s.writeStore fn a v = s.store ∨ s.Writes (s.writeStore fn a v) := by
  rw [State.writeStore]
  split
  · exact .inr (.genFloors v)
  · exact .inl rfl

theorem exec_stores {i : Instr} {s t : State} (h : exec i s = .next t) : s.StoresBecome t.sealedStores := by
  cases i with
  | startupStepEnd sc r =>
    cases h
    exact s.stepEnds_stores sc r
  | imgGenFloorWrite v => exact answerStore_stores (.inr (.genFloors v)) h
  | registerWrite fn a v => exact answerStore_stores (s.writeStore_writes fn a.toNat v) h
  | firmwareUpdateDone r => exact answerStore_stores (.inr (.firmware r)) h
  | imageSigningSlotOperationEnd => exact answerStore_stores (.inr .keySlot) h
  | _ => exact answer_stores h

theorem State.strike_sealedStores (s : State) : s.strike.sealedStores = s.sealedStores := by
  rw [State.strike]
  split <;> split <;> rfl

theorem tick_sealedStores (s : State) : (tick s).sealedStores = s.sealedStores := by
  refine .trans ?_ s.strike_sealedStores
  rw [tick]
  split <;> split <;> rfl

/-- Every step does to the stores what its command, with the queue's rest, or a passing nanosecond does. -/
theorem step_stores {s t : State} (h : step s = .next t) :
    ∃ cs, ({ s with pending := cs } : State).StoresBecome t.sealedStores := by
  rw [step] at h
  split at h
  · cases h
    exact ⟨s.pending, State.storesBecome_of_eq (tick_sealedStores s)⟩
  · next cs _ => exact ⟨cs, exec_stores h⟩

/-- A run of a step and more goes through the state after the step. -/
theorem run_succ {k : Nat} {s t : State} (h : core.run (k + 1) s = .next t) :
    ∃ u, step s = .next u ∧ core.run k u = .next t := by
  simp only [Host.Core.run] at h
  split at h
  · next u hu => exact ⟨u, hu, h⟩
  · cases h
  · cases h

/-! ### A record of the four stores -/

section
variable {α : Type}

/-- What the four stores say of a record is what the device has loaded (R338). -/
def State.soundAt (s : State) (f : Store → Stored α) : Prop :=
  newest ((dieIds.map s.storeOf).map f) = some (f s.store)

/-- A record of a store: carried into a die's store exactly where it changes, read at step 2 as the newest of the four, and
replaced by commands by later versions only. -/
structure IsRecord [DecidableEq α] (f : Store → Stored α) : Prop where
  carry : ∀ own was now : Store, f (own.carry was now) = if f was = f now then f own else f now
  loaded : ∀ {s : State} {x : Store}, s.loadStores = some x → newest ((dieIds.map s.storeOf).map f) = some (f x)
  written : ∀ {s : State} {x : Store}, s.Writes x → (f s.store).Follows (f x)

variable {f : Store → Stored α}

theorem State.mem_storesOf {s : State} {r : Stored α} :
    r ∈ (dieIds.map s.storeOf).map f ↔ ∃ d ∈ dieIds, f (s.storeOf d) = r := by simp

/-- Four stores that agree with a record that authenticates say that record. -/
theorem State.soundAt_of_agree {t : State} (hauth : (f t.store).auth = true)
    (hagree : ∀ d ∈ dieIds, f (t.storeOf d) = f t.store) : t.soundAt f := by
  refine newest_eq_some (State.mem_storesOf.mpr ⟨0, by decide, hagree 0 (by decide)⟩) hauth fun r hr _ => .inl ?_
  obtain ⟨d, hd, rfl⟩ := State.mem_storesOf.mp hr
  exact hagree d hd

/-- Some unfenced die's store holds the later version, and the other stores hold it or an earlier one. -/
theorem IsRecord.soundAt_written [DecidableEq α] (hf : IsRecord f) {s t : State} {x : Store} (hs : s.soundAt f)
    (hw : s.Writes x) (hu : s.unfenced ≠ []) (ht : t.sealedStores = (x, s.writeStores x)) : t.soundAt f := by
  obtain ⟨rfl, hts⟩ : t.store = x ∧ t.stores = s.writeStores x := Prod.ext_iff.mp ht
  have hget : ∀ d, f (t.storeOf d) = if d ∈ s.unfenced ∧ f s.store ≠ f t.store then f t.store else f (s.storeOf d) := by
    intro d
    rw [State.storeOf, hts, get_writeStores, apply_ite f, hf.carry]
    by_cases hd : d ∈ s.unfenced <;> by_cases he : f s.store = f t.store <;> simp [hd, he]
  obtain heq | ⟨hver, hauth⟩ := hf.written hw
  · have hsame : (dieIds.map t.storeOf).map f = (dieIds.map s.storeOf).map f := by simp [hget, heq]
    rw [State.soundAt, hsame, hs, heq]
  · have hne : f s.store ≠ f t.store := fun he => absurd (congrArg Stored.ver he) (by omega)
    obtain ⟨e, he⟩ := List.exists_mem_of_ne_nil _ hu
    refine newest_eq_some (State.mem_storesOf.mpr ⟨e, State.mem_dieIds_of_unfenced he, by simp [hget, he, hne]⟩) hauth
      fun r hr ha => ?_
    obtain ⟨d, hd, rfl⟩ := State.mem_storesOf.mp hr
    rw [hget] at ha ⊢
    split
    · exact .inl rfl
    · next hc =>
      rw [if_neg hc] at ha
      obtain ⟨_, _, hmax⟩ := newest_some hs
      exact .inr (Nat.lt_of_le_of_lt (hmax _ (State.mem_storesOf.mpr ⟨d, hd, rfl⟩) ha) hver)

/-- Where the four stores agree with what is loaded, they still do after any step, and the record is as it was or
has been written. -/
theorem IsRecord.step [DecidableEq α] (hf : IsRecord f) {s t : State} (hs : s.soundAt f)
    (h : s.StoresBecome t.sealedStores) : t.soundAt f ∧ (f t.store = f s.store ∨ s.Writes t.store) := by
  generalize hp : t.sealedStores = p at h
  cases h with
  | kept =>
    obtain ⟨hstore, hstores⟩ : t.store = s.store ∧ t.stores = s.stores := Prod.ext_iff.mp hp
    have hget : t.storeOf = s.storeOf := by
      funext d
      rw [State.storeOf, State.storeOf, hstores]
    exact ⟨by rw [State.soundAt, hget, hstore]; exact hs, .inl (congrArg f hstore)⟩
  | written hw hu =>
    obtain ⟨rfl, _⟩ : t.store = _ ∧ t.stores = _ := Prod.ext_iff.mp hp
    exact ⟨hf.soundAt_written hs hw hu hp, .inr hw⟩
  | @loaded x hl =>
    obtain ⟨rfl, hstores⟩ : t.store = x ∧ t.stores = (s.adoptStore x).stores := Prod.ext_iff.mp hp
    have hnew := hf.loaded hl
    obtain ⟨_, hauth, _⟩ := newest_some hnew
    refine ⟨State.soundAt_of_agree hauth fun d hd => ?_, .inl (Option.some.inj (hnew.symm.trans hs))⟩
    rw [State.storeOf, hstores]
    exact congrArg f (s.storeOf_adoptStore t.store hd)

end

/-! ### The floors -/

section
variable {n : Nat}

/-- A write of a floor: it stays, or a higher value takes its place. -/
def Stored.RaisedTo (r r' : Stored (BitVec n)) : Prop := r' = r ∨ ∃ v, r.val < v ∧ r' = r.put v

theorem Stored.RaisedTo.follows {r r' : Stored (BitVec n)} (h : r.RaisedTo r') : r.Follows r' := by
  obtain rfl | ⟨v, _, rfl⟩ := h
  · exact r'.follows_refl
  · exact r.follows_put v

theorem Stored.RaisedTo.val_le {r r' : Stored (BitVec n)} (h : r.RaisedTo r') : r.val ≤ r'.val := by
  obtain rfl | ⟨v, hv, rfl⟩ := h
  · exact BitVec.le_refl _
  · exact BitVec.le_of_lt hv

/-- A record of which every write is a raise. -/
structure IsFloor (f : Store → Stored (BitVec n)) : Prop extends IsRecord f where
  raised : ∀ {s : State} {x : Store}, s.Writes x → (f s.store).RaisedTo (f x)

variable {f : Store → Stored (BitVec n)}

theorem IsFloor.of_raised
    (hcarry : ∀ own was now : Store, f (own.carry was now) = if f was = f now then f own else f now)
    (hloaded : ∀ {s : State} {x : Store}, s.loadStores = some x → newest ((dieIds.map s.storeOf).map f) = some (f x))
    (hraised : ∀ {s : State} {x : Store}, s.Writes x → (f s.store).RaisedTo (f x)) : IsFloor f where
  carry := hcarry
  loaded := hloaded
  written hw := (hraised hw).follows
  raised := hraised

theorem IsFloor.step_le (hf : IsFloor f) {s t : State} (hs : s.soundAt f) (h : step s = .next t) :
    t.soundAt f ∧ (f s.store).val ≤ (f t.store).val := by
  obtain ⟨cs, hb⟩ := step_stores h
  obtain ⟨ht, heq | hw⟩ := hf.step (s := { s with pending := cs }) hs hb
  · exact ⟨ht, heq ▸ BitVec.le_refl _⟩
  · exact ⟨ht, (hf.raised hw).val_le⟩

theorem IsFloor.run_le (hf : IsFloor f) {k : Nat} {s t : State} (hs : s.soundAt f) (h : core.run k s = .next t) :
    (f s.store).val ≤ (f t.store).val := by
  induction k generalizing s with
  | zero =>
    cases h
    exact BitVec.le_refl _
  | succ k ih =>
    obtain ⟨u, hu, hrun⟩ := run_succ h
    obtain ⟨hsu, hle⟩ := hf.step_le hs hu
    exact BitVec.le_trans hle (ih hsu hrun)

end

/-! ### What the commands write into the floors -/

theorem fld_low (v : Word) : fld v 31 0 = v.toNat % 2 ^ 32 := by simp [fld]

theorem fld_high (v : Word) : fld v 63 32 = v.toNat / 2 ^ 32 := by
  rw [fld, Nat.shiftRight_eq_div_pow]
  exact Nat.mod_eq_of_lt (by have := v.isLt; omega)

theorem ite_put_raisedTo (r : Stored (BitVec 32)) {k : Nat} (hk : k < 2 ^ 32) :
    r.RaisedTo (if r.val.toNat < k then r.put (BitVec.ofNat 32 k) else r) := by
  split
  · next h => exact .inr ⟨_, by rw [BitVec.lt_def, BitVec.toNat_ofNat, Nat.mod_eq_of_lt hk]; exact h, rfl⟩
  · exact .inl rfl

theorem State.floorStore_raised (s : State) (v : Word) :
    s.store.genServe.RaisedTo (s.floorStore v).genServe ∧ s.store.genLearn.RaisedTo (s.floorStore v).genLearn ∧
      (s.floorStore v).fwFloor = s.store.fwFloor := by
  rw [State.floorStore]
  split
  · refine ⟨ite_put_raisedTo _ ?_, ite_put_raisedTo _ ?_, rfl⟩
    · rw [fld_low]; omega
    · rw [fld_high]; have := v.isLt; omega
  · exact ⟨.inl rfl, .inl rfl, rfl⟩

theorem State.updateStore_raised (s : State) (r : FlashResult) :
    (s.updateStore r).genServe = s.store.genServe ∧ (s.updateStore r).genLearn = s.store.genLearn ∧
      s.store.fwFloor.RaisedTo (s.updateStore r).fwFloor := by
  rw [State.updateStore]
  split
  · next svn _ =>
    split
    · next h =>
      obtain ⟨_, hlt⟩ : _ ∧ s.store.fwFloor.val < svn := by simpa using h
      exact ⟨rfl, rfl, .inr ⟨svn, hlt, rfl⟩⟩
    · exact ⟨rfl, rfl, .inl rfl⟩
  · exact ⟨rfl, rfl, .inl rfl⟩

theorem State.keyStore_floors (s : State) : s.keyStore.genServe = s.store.genServe ∧
    s.keyStore.genLearn = s.store.genLearn ∧ s.keyStore.fwFloor = s.store.fwFloor := by
  rw [State.keyStore]
  split
  · exact ⟨rfl, rfl, rfl⟩
  · split <;> exact ⟨rfl, rfl, rfl⟩

/-- R84, R336: whatever a command writes, each floor stays or rises. -/
theorem State.Writes.floors_raised {s : State} {x : Store} (h : s.Writes x) : s.store.genServe.RaisedTo x.genServe ∧
    s.store.genLearn.RaisedTo x.genLearn ∧ s.store.fwFloor.RaisedTo x.fwFloor := by
  cases h with
  | genFloors v =>
    obtain ⟨hs, hl, hf⟩ := s.floorStore_raised v
    exact ⟨hs, hl, .inl hf⟩
  | firmware r =>
    obtain ⟨hs, hl, hf⟩ := s.updateStore_raised r
    exact ⟨.inl hs, .inl hl, hf⟩
  | keySlot =>
    obtain ⟨hs, hl, hf⟩ := s.keyStore_floors
    exact ⟨.inl hs, .inl hl, .inl hf⟩

theorem genServe_isFloor : IsFloor Store.genServe := by
  refine .of_raised (fun _ _ _ => rfl) (fun hl => ?_) (fun hw => ?_)
  · obtain ⟨hf, _, _⟩ := State.loadStores_floors hl
    exact hf
  · obtain ⟨hf, _, _⟩ := hw.floors_raised
    exact hf

theorem genLearn_isFloor : IsFloor Store.genLearn := by
  refine .of_raised (fun _ _ _ => rfl) (fun hl => ?_) (fun hw => ?_)
  · obtain ⟨_, hf, _⟩ := State.loadStores_floors hl
    exact hf
  · obtain ⟨_, hf, _⟩ := hw.floors_raised
    exact hf

theorem fwFloor_isFloor : IsFloor Store.fwFloor := by
  refine .of_raised (fun _ _ _ => rfl) (fun hl => ?_) (fun hw => ?_)
  · obtain ⟨_, _, hf⟩ := State.loadStores_floors hl
    exact hf
  · obtain ⟨_, _, hf⟩ := hw.floors_raised
    exact hf

/-! ### A write of IMG_GEN_FLOOR (R84) -/

theorem State.floorStore_ready {s : State} (hr : s.power.ready = true) (v : Word) :
    s.floorStore v = s.store.raiseFloors v := if_pos hr

theorem ite_put_toNat (r : Stored (BitVec 32)) {k : Nat} (hk : k < 2 ^ 32) :
    (if r.val.toNat < k then r.put (BitVec.ofNat 32 k) else r).val.toNat = max r.val.toNat k := by
  split
  · next h => simp only [Stored.put, BitVec.toNat_ofNat, Nat.mod_eq_of_lt hk]; omega
  · omega

theorem Store.raiseFloors_genServe_toNat (x : Store) (v : Word) :
    (x.raiseFloors v).genServe.val.toNat = max x.genServe.val.toNat (v.toNat % 2 ^ 32) := by
  rw [← fld_low]
  exact ite_put_toNat _ (by rw [fld_low]; omega)

theorem Store.raiseFloors_genLearn_toNat (x : Store) (v : Word) :
    (x.raiseFloors v).genLearn.val.toNat = max x.genLearn.val.toNat (v.toNat / 2 ^ 32) := by
  rw [← fld_high]
  exact ite_put_toNat _ (by rw [fld_high]; have := v.isLt; omega)

/-- With a die that is not fenced, the answer holds the new store, and the dies' stores that a change of it has reached. -/
theorem answerStore_of_unfenced {s : State} (hu : s.unfenced ≠ []) (x : Store) :
    answerStore s s x = .next { s with store := x, stores := if x = s.store then s.stores else s.writeStores x } := by
  by_cases hx : x = s.store
  · subst hx; simp [answerStore, answer_self]
  · simp [answerStore, hx, hu, answerWith]

theorem answerStore_all_fenced {s : State} (hu : s.unfenced = []) (x : Store) : answerStore s s x = .next s := by
  rw [answerStore, if_pos (.inr hu), answer_self]

/-- R84: each floor is the higher of what it was and what is written, in the stores of all dies that are not fenced. -/
theorem exec_imgGenFloorWrite_raises (v : Word) {s : State} (hr : s.power.ready = true) (hu : s.unfenced ≠ []) :
    ∃ t, exec (.imgGenFloorWrite v) s = .next t ∧ t = { s with store := t.store, stores := t.stores } ∧
      t.store = s.store.raiseFloors v ∧
      (∀ d : DieId, (s.die d.val).fenced = true → t.storeOf d.val = s.storeOf d.val) ∧
      (∀ d : DieId, (s.die d.val).fenced = false → t.store ≠ s.store →
        t.storeOf d.val = (s.storeOf d.val).carry s.store t.store) := by
  have hexec : exec (.imgGenFloorWrite v) s = answerStore s s (s.store.raiseFloors v) := by
    rw [← State.floorStore_ready hr v]; rfl
  refine ⟨_, hexec.trans (answerStore_of_unfenced hu _), rfl, rfl, fun d hd => ?_, fun d hd hne => ?_⟩
  · have hd' : d.val ∉ s.unfenced := by simp [State.mem_unfenced, hd]
    dsimp only [State.storeOf]
    split
    · rfl
    · rw [get_writeStores, if_neg hd']; rfl
  · dsimp only [State.storeOf] at hne ⊢
    rw [if_neg hne, get_writeStores, if_pos ((s.mem_unfenced d).mpr hd)]
    rfl

/-- A floor that rises in the loaded store is carried into a die's. -/
theorem IsFloor.carry_of_lt {n : Nat} {f : Store → Stored (BitVec n)} (hf : IsFloor f) (own : Store) {was now : Store}
    (h : (f was).val.toNat < (f now).val.toNat) : f (own.carry was now) = f now := by
  rw [hf.carry, if_neg fun he => by rw [he] at h; omega]

/-! ### The statement -/

/-- Settles O4: a write of the floors raises them by R84's rule, and each floor is a record that every write only raises, so
that it never falls from a state whose stores agree, by induction on the number of steps. -/
theorem floorsOnlyRise : Obligations.FloorsOnlyRise := by
  unfold Obligations.FloorsOnlyRise
  refine ⟨fun v s hr hu => ?_, fun v s hu => answerStore_all_fenced hu _, fun n s t hs h => ?_⟩
  · obtain ⟨t, hexec, hframe, hstore, hfenced, hunfenced⟩ := exec_imgGenFloorWrite_raises v hr hu
    have hserve := s.store.raiseFloors_genServe_toNat v
    have hlearn := s.store.raiseFloors_genLearn_toNat v
    rw [← hstore] at hserve hlearn
    refine ⟨t, hexec, hframe, by rw [hstore]; rfl, hserve, hlearn, hfenced, fun d hd => ⟨fun hlt => ?_, fun hlt => ?_⟩⟩
    · have hrise : s.store.genServe.val.toNat < t.store.genServe.val.toNat := by omega
      rw [hunfenced d hd fun he => by rw [he] at hrise; omega]
      exact genServe_isFloor.carry_of_lt _ hrise
    · have hrise : s.store.genLearn.val.toNat < t.store.genLearn.val.toNat := by omega
      rw [hunfenced d hd fun he => by rw [he] at hrise; omega]
      exact genLearn_isFloor.carry_of_lt _ hrise
  · obtain ⟨hserve, hlearn, hfw, _⟩ := hs
    exact ⟨genServe_isFloor.run_le hserve h, genLearn_isFloor.run_le hlearn h, fwFloor_isFloor.run_le hfw h⟩

end Sys2Proof.Machine

/-! SUPPORT. Completing a vector (R222): the in-service stack of a die, nesting faults and their records. -/

namespace Sys2Proof.Machine

/-! ### One die of the state -/

theorem State.modDie_die_same (s : State) (d : Nat) (g : Die → Die) : (s.modDie d g).die d = g (s.die d) :=
  s.setDie_same d _

theorem State.modDie_die_other (s : State) {d e : Nat} (g : Die → Die) (h : e ≠ d) : (s.modDie d g).die e = s.die e :=
  s.setDie_other _ (Ne.symm h)

theorem State.modDie_die (s : State) (d e : Nat) (g : Die → Die) :
    (s.modDie d g).die e = if e = d then g (s.die e) else s.die e := by
  split
  · next h => rw [h, State.modDie_die_same]
  · next h => exact s.modDie_die_other g h

theorem State.raise_die (s : State) (d src e : Nat) : (s.raise d src).die e = s.die e := rfl

/-! ### A record posted to the log (R228) -/

/-- Posting to a state is posting to any other with the time and the die's log as they are there. -/
theorem Posted.of_log_eq {s u t : State} {d event : Nat} {code : Code} {detail : Nat} (h : Posted u t d event code detail)
    (htime : u.time = s.time) (hqueue : (u.die d).logQueue = (s.die d).logQueue)
    (hdrops : (u.die d).logDrops = (s.die d).logDrops) : Posted s t d event code detail := by
  unfold Posted at h ⊢
  rwa [htime, hqueue, hdrops] at h

section
variable (s : State) (d event : Nat) (code : Code) (detail src : Nat)

/-- The record waits at the end of the die's queue, or is dropped and counted. -/
theorem State.post_posted : Posted s (s.post d event code detail src) d event code detail := by
  unfold Posted State.post
  dsimp only
  split
  · exact ⟨_, by rw [State.modDie_die_same], rfl, rfl, rfl, rfl⟩
  · rw [State.raise_die, State.modDie_die_same]
    exact ⟨rfl, rfl⟩

theorem State.post_die_other {e : Nat} (h : e ≠ d) : (s.post d event code detail src).die e = s.die e := by
  unfold State.post
  dsimp only
  split
  · exact s.modDie_die_other _ h
  · rw [State.raise_die]
    exact s.modDie_die_other _ h

/-- Of its die a post changes the log's queue and the counter of drops alone. -/
theorem State.post_die_same : (s.post d event code detail src).die d =
    { s.die d with logQueue := ((s.post d event code detail src).die d).logQueue
                   logDrops := ((s.post d event code detail src).die d).logDrops } := by
  unfold State.post
  dsimp only
  split
  · rw [State.modDie_die_same]
  · rw [State.raise_die, State.modDie_die_same]

/-- Of the sources a post can raise that of dropped records alone. -/
theorem State.post_src_other {k : Nat} (h : srcKey d srcLogDrop ≠ k) :
    (s.post d event code detail src).src k = s.src k := by
  unfold State.post
  dsimp only
  split
  · rfl
  · exact State.raise_src_other _ d _ k h

end

/-! ### Nesting faults -/

theorem srcKey_logDrop_ne_nest (d : Nat) : srcKey d srcLogDrop ≠ srcKey d srcNest := by
  change d * 16384 + srcLogDrop ≠ d * 16384 + srcNest
  simp [srcLogDrop, srcNest]

/-- INT_PF_NEST after a fault keeps the first one recorded since its flag was clear. -/
def State.keepNest (s : State) (d : Nat) (n : Nest) : State :=
  if s.flagOf d srcNest then s else s.modDie d (fun x => { x with nest := n })

section
variable (s : State) (d : Nat) (n : Nest)

theorem State.nestFault_eq : s.nestFault d n = ((s.keepNest d n).raise d srcNest).post d 0x000E Status.ok
    (n.expected.toNat * 256 + n.given.toNat) srcNest := rfl

theorem State.keepNest_frame : s.keepNest d n = { s with dies := (s.keepNest d n).dies } := by
  unfold State.keepNest
  split <;> rfl

theorem State.keepNest_die_other {e : Nat} (h : e ≠ d) : (s.keepNest d n).die e = s.die e := by
  unfold State.keepNest
  split
  · rfl
  · exact s.modDie_die_other _ h

theorem State.keepNest_die_same : (s.keepNest d n).die d =
    { s.die d with nest := if s.flagOf d srcNest then (s.die d).nest else n } := by
  unfold State.keepNest
  split
  · rfl
  · exact s.modDie_die_same d _

theorem State.keepNest_src (k : Nat) : (s.keepNest d n).src k = s.src k := by
  rw [State.keepNest_frame]
  rfl

theorem State.keepNest_time : (s.keepNest d n).time = s.time := by
  rw [State.keepNest_frame]

/-- A nesting fault changes registers of its die and sources. -/
theorem State.nestFault_frame :
    s.nestFault d n = { s with dies := (s.nestFault d n).dies, srcs := (s.nestFault d n).srcs } := by
  rw [State.nestFault_eq, State.post_frame, State.raise_frame, State.keepNest_frame]

theorem State.nestFault_die_other {e : Nat} (h : e ≠ d) : (s.nestFault d n).die e = s.die e := by
  rw [State.nestFault_eq, State.post_die_other _ _ _ _ _ _ h, State.raise_die, State.keepNest_die_other s d n h]

theorem State.nestFault_pfStack : ((s.nestFault d n).die d).pfStack = (s.die d).pfStack := by
  rw [State.nestFault_eq, State.post_die_same, State.raise_die, State.keepNest_die_same]

/-- R222: the source of nesting faults is raised, the first fault stands in INT_PF_NEST, and a record is posted. -/
theorem State.nestFault_faulted : NestFaulted s (s.nestFault d n) d n := by
  have hsrc : (s.nestFault d n).src (srcKey d srcNest) = ((s.keepNest d n).raise d srcNest).src (srcKey d srcNest) :=
    State.post_src_other _ d _ _ _ _ (srcKey_logDrop_ne_nest d)
  refine ⟨?_, ?_, ?_, ?_⟩
  · rw [State.flagOf, hsrc]
    exact State.raise_flag _ d srcNest
  · rw [hsrc, State.raise_src, State.keepNest_src]
    rfl
  · rw [State.nestFault_eq, State.post_die_same, State.raise_die, State.keepNest_die_same]
  · refine (((s.keepNest d n).raise d srcNest).post_posted d 0x000E Status.ok _ srcNest).of_log_eq ?_ ?_ ?_
    · exact s.keepNest_time d n
    · rw [State.raise_die, State.keepNest_die_same]
    · rw [State.raise_die, State.keepNest_die_same]

end

/-! ### The in-service stack -/

/-- The PF's stack of a die replaced. -/
def State.setStack (s : State) (d : Nat) (xs : List (BitVec 8 × BitVec 4)) : State :=
  s.modDie d (fun x => { x with pfStack := xs })

theorem State.setStack_die (s : State) (d e : Nat) (xs : List (BitVec 8 × BitVec 4)) :
    (s.setStack d xs).die e = if e = d then { s.die e with pfStack := xs } else s.die e := s.modDie_die d e _

theorem State.setStack_die_same (s : State) (d : Nat) (xs : List (BitVec 8 × BitVec 4)) :
    (s.setStack d xs).die d = { s.die d with pfStack := xs } := s.modDie_die_same d _

theorem State.setStack_die_other (s : State) {d e : Nat} (xs : List (BitVec 8 × BitVec 4)) (h : e ≠ d) :
    (s.setStack d xs).die e = s.die e := s.modDie_die_other _ h

/-- A fault on a state with another stack is one on the state itself: no part of the record lies in the stack. -/
theorem NestFaulted.of_setStack {s t : State} {d : Nat} {xs : List (BitVec 8 × BitVec 4)} {n : Nest}
    (h : NestFaulted (s.setStack d xs) t d n) : NestFaulted s t d n := by
  obtain ⟨hflag, hcount, hnest, hposted⟩ := h
  rw [State.setStack_die_same] at hnest
  refine ⟨hflag, hcount, hnest, hposted.of_log_eq rfl ?_ ?_⟩
  · rw [State.setStack_die_same]
  · rw [State.setStack_die_same]

/-- The topmost entry of a vector goes, and the entries above it close up. -/
theorem removeVector_append {v : BitVec 8} {pre : List (BitVec 8 × BitVec 4)} (hpre : ∀ x ∈ pre, x.1 ≠ v) (p : BitVec 4)
    (post : List (BitVec 8 × BitVec 4)) : removeVector v (pre ++ (v, p) :: post) = pre ++ post := by
  induction pre with
  | nil => simp [removeVector]
  | cons x xs ih =>
    obtain ⟨hx, hxs⟩ := List.forall_mem_cons.mp hpre
    rw [List.cons_append, removeVector, if_neg hx, ih hxs, List.cons_append]

section
variable {s : State} {d : Nat} {v : BitVec 8}

theorem State.eoi_top {p : BitVec 4} {rest : List (BitVec 8 × BitVec 4)} (h : (s.die d).pfStack = (v, p) :: rest) :
    s.eoi d v = s.setStack d rest := by
  simp [State.eoi, h, State.setStack]

theorem State.eoi_lower {top : BitVec 8 × BitVec 4} {pre : List (BitVec 8 × BitVec 4)} {p : BitVec 4}
    {post : List (BitVec 8 × BitVec 4)} (h : (s.die d).pfStack = top :: pre ++ (v, p) :: post) (htop : top.1 ≠ v)
    (hpre : ∀ x ∈ pre, x.1 ≠ v) : s.eoi d v = (s.setStack d (top :: pre ++ post)).nestFault d
      { notFound := false, empty := false, expected := top.1, given := v } := by
  simp [State.eoi, h, htop, removeVector_append hpre, State.setStack]

theorem State.eoi_absent (h : ∀ x ∈ (s.die d).pfStack, x.1 ≠ v) : s.eoi d v = s.nestFault d
    { notFound := true, empty := (s.die d).pfStack.isEmpty
      expected := ((s.die d).pfStack.head?.map Prod.fst).getD 0, given := v } := by
  cases hs : (s.die d).pfStack with
  | nil => simp [State.eoi, hs]
  | cons top rest =>
    rw [hs] at h
    obtain ⟨htop, hrest⟩ := List.forall_mem_cons.mp h
    have hany : rest.any (fun e => e.1 == v) = false := by simpa using hrest
    simp [State.eoi, hs, htop, hany]

end

/-! ### Answers -/

/-- A state that differs in registers of dies and in sources alone is answered as it is. -/
theorem answer_of_dies_srcs {s t : State} (h : t = { s with dies := t.dies, srcs := t.srcs }) : answer s t = .next t := by
  rw [answer_eq, h]

theorem exec_intPfEoi_ready {s : State} (hr : s.power.ready = true) (d : DieId) (v : Word) :
    exec (.intPfEoi d v) s = answer s (s.eoi d.val (v.truncate 8)) := by
  change answer s (s.whenReady (s.eoi d.val (v.truncate 8))) = _
  rw [State.whenReady_ready hr]

theorem answer_setStack (s : State) (d : Nat) (xs : List (BitVec 8 × BitVec 4)) :
    answer s (s.setStack d xs) = .next (s.setStack d xs) := rfl

theorem exec_stackReset_ready {s : State} (hr : s.power.ready = true) (d : DieId) :
    exec (.stackReset d) s = .next (s.setStack d.val []) := by
  change answer s (s.whenReady (s.setStack d.val [])) = _
  rw [State.whenReady_ready hr, answer_setStack]

/-! ### The statement -/

/-- Settles O57: a vector at the top is popped, one that lies lower is removed with a nesting fault, one that is absent
leaves the stack with a nesting fault; STACK_RESET stores an empty stack. -/
theorem vectorCompletion : Obligations.VectorCompletion := by
  unfold Obligations.VectorCompletion
  intro d s hr
  refine ⟨?_, _, exec_stackReset_ready hr d, rfl, fun e => s.setStack_die d.val e []⟩
  rintro v g rfl
  rw [exec_intPfEoi_ready hr]
  refine ⟨fun p rest h => ?_, fun top pre p post h htop hpre => ?_, fun h => ?_⟩
  · rw [State.eoi_top h]
    exact ⟨_, answer_setStack s d.val rest, rfl, fun e => s.setStack_die d.val e rest⟩
  · rw [State.eoi_lower h htop hpre]
    refine ⟨_, answer_of_dies_srcs (State.nestFault_frame _ _ _), State.nestFault_frame _ _ _, ?_,
      (State.nestFault_faulted _ _ _).of_setStack, fun e he => ?_⟩
    · rw [State.nestFault_pfStack, State.setStack_die_same]
    · rw [State.nestFault_die_other _ _ _ he, s.setStack_die_other _ he]
  · rw [State.eoi_absent h]
    exact ⟨_, answer_of_dies_srcs (s.nestFault_frame _ _), s.nestFault_frame _ _, s.nestFault_pfStack _ _,
      fun e he => s.nestFault_die_other _ _ he, s.nestFault_faulted _ _⟩

end Sys2Proof.Machine
